-- ==== Sys2Proof/Word.lean ====
section
/-! DEFINITION. The plain value types every file shares: link bytes, node numbers and timers. -/

namespace Sys2Proof

/-- One byte of a frame's payload (R2). -/
abbrev Byte := BitVec 8

/-- A node number of the body, 0-7 (R21). -/
abbrev Node := Fin 8

/-- A named timer: stopped, or running with the milliseconds it was last loaded with.
Its running out is a command of its own (assumption 2). -/
abbrev Timer := Option Nat

end Sys2Proof
end

