-- ==== Sys2Proof/Syntax.lean ====
section
/-! DEFINITION. The commands of the block: one constructor per row of spec/opcode_table.json, with the operands that
the event's own rule names, and the plain types of those operands. -/

namespace Sys2Proof

/-- The levels of the nine strap pins as a reset samples them (R21). -/
structure StrapPins where
  /-- NODE, 3 pins, binary -/
  node : Fin 8
  /-- ROLE, 2 pins: CAB 0, LIFT 1, HATCH 2, BEACON 3 -/
  role : Fin 4
  /-- SIDE, 1 pin, true when high: KERB when low, ROAD when high -/
  side : Bool
  /-- FIT, 3 pins -/
  fit : Fin 8
  deriving DecidableEq, Repr

/-- A frame as a receiver collects it, from the identifier to the closing bit (R2, R7). The length field it received is
the number of payload bytes it collected. -/
structure LineFrame where
  /-- the kind class, first four bits of the identifier -/
  cls : Fin 16
  /-- the sender's node number, last three bits of the identifier -/
  sender : Node
  /-- as many payload bytes as the length field states, 0-63 -/
  payload : List Byte
  /-- the 15 CRC bits received -/
  check : BitVec 15
  /-- whether the closing bit was read dominant -/
  closing : Bool
  deriving DecidableEq, Repr

/-- The two faults an output driver senses (R70). -/
inductive DriverFault
  | openLoad
  | overCurrent
  deriving DecidableEq, Repr

/-- The actuator channels of the LIFT and HATCH roles (R88). -/
inductive Chan
  | lift
  | tilt
  | fold
  | ram
  | latch
  deriving DecidableEq, Repr

/-- The beacon groups (R174). -/
inductive Group
  | rear
  | kerb
  | road
  | flags
  deriving DecidableEq, Repr

/-- One character as the service port's receiver gets it: its eight data bits, and whether its stop bit was low, which is
a framing error (R192). -/
structure RxChar where
  code : BitVec 8
  stopLow : Bool
  deriving DecidableEq, Repr

/-- The commands of the node, one per row of the table. Levels and bits are given as bit values: true is 1, recessive. -/
inductive Instr
  | powerOnReset (straps : StrapPins)
  | externalReset (straps : StrapPins)
  /-- the bits read back over the internal path, start bit to closing bit, and the level of the veto slot (R23) -/
  | loopTest (bits : List Bool) (slot : Bool)
  | attemptStart
  | arbitrationLost
  | transmitError
  /-- the frame on the line as a receiver collected it, and whether another node drives the veto slot dominant -/
  | vetoSlot (rx : LineFrame) (vetoed : Bool)
  | transmitGuard
  | halt
  | clear
  | evict
  | yield
  | claim
  | snapshot
  | join
  | posture
  | probe
  | reply
  | listenTimer
  | joinRepeatTimer
  | isolationRestTimer
  | silenceTimer (n : Node)
  /-- the raw contact of a switch input closes (true) or opens -/
  | rawInputChange (i : Fin 16) (closed : Bool)
  | inputFilterExpiry (i : Fin 16)
  | strokePulse
  | roadSpeedPulse
  | standstillTimer
  | requestWindowTimer
  | channelDriverFault (o : Fin 12) (k : DriverFault)
  | lampFault (o : Fin 12) (k : DriverFault)
  | outputFaultLatch (o : Fin 12) (k : DriverFault)
  | claimWaitTimer
  | pauseTimer
  | settleTimer (c : Chan)
  | leadTimer
  | recoveryTimer
  | primingTimer
  | driveLimit
  | driveTimeEnd
  | posturePeriodTimer
  | postureSpacingTimer
  | idleTimer
  | dutyLimit
  | restTimer
  | plausibilityTimer
  /-- whether a lamp of the group is open, and whether one draws over-current, at the end of the timer -/
  | groupTimer (g : Group) (openLoad overCurrent : Bool)
  | hazardFlashTimer
  /-- as for `groupTimer`, for the group in its test slot -/
  | testSlotTimer (openLoad overCurrent : Bool)
  | cabFaultFlashTimer
  | nodeOkFlashTimer
  | timeTagTick
  /-- the service-port rows carry the characters received before the line's carriage return -/
  | status (line : List RxChar)
  | roster (line : List RxChar)
  | table (line : List RxChar)
  | log (line : List RxChar)
  | peerStatus (line : List RxChar)
  | peerLog (line : List RxChar)
  | error (line : List RxChar)
  | answerSent
  | relayTimer
  | idleGap
  deriving DecidableEq, Repr

end Sys2Proof
end

