-- ==== Sys2Proof/Config.lean ====
section
/-! DEFINITION. What one fitted part fixes and the spec leaves to it: the strap levels, the factory serial and the
switch contacts found at power-on. The values here are DESIGN CHOICES (assumptions 4 and 5). -/

namespace Sys2Proof

/-- The factory serial of the part (R21: 24 bits, fixed at manufacture). DESIGN CHOICE: 0, unsafe (assumption 4). -/
def Config.serial : BitVec 24 := 0

/-- Whether the contact of a switch input is closed at power-on. DESIGN CHOICE: the STOP loop IN0 is closed and every
other contact is open, unsafe (assumption 5). -/
def Config.contactAtPowerOn (i : Fin 16) : Bool := i == 0

end Sys2Proof
end

