-- ==== Sys2Proof/Machine/PortLine.lean ====
section
/-! DEFINITION. The service port's receiver (R192) and the reading of a line handed on (the table of R193). -/

namespace Sys2Proof.Machine

/-- The receive line buffer with its two marks (R192). -/
structure LineBuf where
  /-- the stored characters, in order, at most 32 -/
  chars : List Nat
  bad : Bool
  overLong : Bool
  deriving DecidableEq, Repr

/-- The empty buffer, as reset and each carriage return leave it (R192, R198). -/
def LineBuf.empty : LineBuf := { chars := [], bad := false, overLong := false }

/-- One character enters the buffer (R192): a framing error or a character outside 32-126 marks the line bad, a line
feed is ignored, a 33rd character marks the line over-long, and from then on characters are dropped. A low stop bit
counts before the character's code (DEDUCED, assumption 48). -/
def LineBuf.receive (b : LineBuf) (c : RxChar) : LineBuf :=
  if b.overLong then b
  else if c.stopLow then { b with bad := true }
  else if c.code.toNat = 10 then b
  else if c.code.toNat < 32 ∨ 126 < c.code.toNat then { b with bad := true }
  else if b.chars.length < 32 then { b with chars := b.chars ++ [c.code.toNat] }
  else { b with overLong := true }

/-- The characters of a line enter the buffer in order. -/
def LineBuf.gather (b : LineBuf) (l : List RxChar) : LineBuf := l.foldl LineBuf.receive b

/-- The words of a line: characters parted by one or more spaces, leading and trailing spaces ignored (R193). -/
def splitWords : List Nat → List Nat → List (List Nat)
  | cur, [] => if cur = [] then [] else [cur]
  | cur, c :: rest =>
    if c = 32 then (if cur = [] then splitWords [] rest else cur :: splitWords [] rest)
    else splitWords (cur ++ [c]) rest

/-- What the port reads a line as (R192, R193). -/
inductive LineRead
  /-- nothing but spaces, neither bad nor over-long: dropped with no answer -/
  | blank
  | status
  | roster
  | table
  | log
  | peerStatus (n : Node)
  | peerLog (n : Node) (i : Fin 32)
  /-- bad, over-long or not recognised -/
  | wrong
  deriving DecidableEq, Repr

/-- The codes of the characters of a request word. -/
def codes (w : List Char) : List Nat := w.map Char.toNat

/-- The value of a word of one digit 0-7. -/
def readNode : List Nat → Option Node
  | [d] => if h : 48 ≤ d ∧ d < 56 then some ⟨d - 48, by omega⟩ else none
  | _ => none

/-- The value of a word of one or two digits that names a record index 0-31. -/
def readIndex : List Nat → Option (Fin 32)
  | [d] => if h : 48 ≤ d ∧ d < 58 then some ⟨d - 48, by omega⟩ else none
  | [d, e] =>
    if h : (48 ≤ d ∧ d < 58) ∧ (48 ≤ e ∧ e < 58) ∧ (d - 48) * 10 + (e - 48) < 32 then
      some ⟨(d - 48) * 10 + (e - 48), h.2.2⟩
    else none
  | _ => none

/-- The words of a PEER request after PEER itself (R193). -/
def readPeer (n : List Nat) (rest : List (List Nat)) : LineRead :=
  match readNode n, rest with
  | some t, [w] => if w = codes ['S', 'T', 'A', 'T', 'U', 'S'] then .peerStatus t else .wrong
  | some t, [w, i] =>
    if w = codes ['L', 'O', 'G'] then
      match readIndex i with
      | some k => .peerLog t k
      | none => .wrong
    else .wrong
  | _, _ => .wrong

/-- The reading of a list of words (R193). -/
def readWords : List (List Nat) → LineRead
  | [] => .blank
  | [w] =>
    if w = codes ['S', 'T', 'A', 'T', 'U', 'S'] then .status
    else if w = codes ['R', 'O', 'S', 'T', 'E', 'R'] then .roster
    else if w = codes ['T', 'A', 'B', 'L', 'E'] then .table
    else if w = codes ['L', 'O', 'G'] then .log
    else .wrong
  | w :: n :: rest => if w = codes ['P', 'E', 'E', 'R'] then readPeer n rest else .wrong

/-- The reading of a line at its carriage return (R192, R193): a bad or over-long line is ERROR before anything else. -/
def LineBuf.read (b : LineBuf) : LineRead :=
  if b.bad || b.overLong then .wrong else readWords (splitWords [] b.chars)

end Sys2Proof.Machine
end

