-- ==== Sys2Proof/Machine/State.lean ====
section
/-! DEFINITION. The state of one M430 node, as plain data, and its value right after power-on reset. -/

namespace Sys2Proof.Machine

/-! ## Names -/

/-- The role strapped at reset (R21). -/
inductive Role
  | cab
  | lift
  | hatch
  | beacon
  deriving DecidableEq, Repr

/-- The flank a HATCH node serves (R21). -/
inductive Side
  | kerb
  | road
  deriving DecidableEq, Repr

/-- Role and side, as a JOIN and a roster entry name them (R21, R26). -/
inductive RoleSide
  | cab
  | lift
  | hatch (side : Side)
  | beacon
  deriving DecidableEq, Repr

/-- The node's own membership state (chapter 2, state table). -/
inductive MState
  | start
  | listen
  | joinWait
  | member
  | isolated
  | barred
  | unfit
  deriving DecidableEq, Repr

/-- The replicated state of a roster entry (R26). -/
inductive EState
  | unknown
  | joining
  | member
  | absent
  | barred
  deriving DecidableEq, Repr

/-- Every cause of the part: of failed steps, refusals, stops and leaving the body (R195). -/
inductive Cause
  | limit
  | interlockLost
  | noPressure
  | channelRefused
  | driverFault
  | nestRefused
  | nestLimit
  | nestedFailed
  | claimLost
  | latched
  | notMember
  | hasRecord
  | badClaim
  | panelConflict
  | busy
  | panelStop
  | pendantStop
  | linkRetries
  | vetoGuard
  | evicted
  | diverged
  | fitting
  | roleLimit
  | duplicate
  | loopTest
  | transmitGuard
  deriving DecidableEq, Repr

/-- The outcomes a log record can take (R187, R195). -/
inductive RunOutcome
  | inProgress
  | done
  | skipped
  | failedSkipped
  | failed
  | complete
  | stopped
  | lapsed
  | refused
  | switched
  | halted
  | isolated
  | resync
  | nested
  | barred
  | unfit
  | cut
  deriving DecidableEq, Repr

/-- The manoeuvres, in the order of their codes 1-10 (R86). -/
inductive Manoeuvre
  | unfold
  | lower
  | raise
  | tiltDown
  | tiltUp
  | fold
  | level
  | openHatch
  | closeHatch
  | ease
  deriving DecidableEq, Repr

/-- The own conditions of every role (R77). -/
inductive Cond
  | runActive
  | fault
  | stopPressed
  | brakeSet
  | standstill
  | bodyOn
  | folded
  | unfolded
  | atFloor
  | atBed
  | level
  | pressureUp
  | pumpRunning
  | pumpResting
  | pumpDemand
  | latched
  | openFull
  | edgeClear
  | rearLit
  | kerbLit
  | roadLit
  | flagsLit
  | rearFailed
  | kerbFailed
  | roadFailed
  | flagsFailed
  | hazard
  deriving DecidableEq, Repr

/-- The nine step states, in the order of their codes 1-9 (R78, chapter 7). -/
inductive StepState
  | arming
  | leading
  | opening
  | priming
  | driving
  | stalled
  | paused
  | closing
  | ended
  deriving DecidableEq, Repr

/-! ## The straps -/

/-- The strap values held since the last reset (R21). -/
structure Straps where
  node : Node
  role : Role
  side : Side
  fit : Fin 8
  deriving DecidableEq, Repr

/-! ## Records that travel in frames -/

/-- The run summary of a POSTURE (R78). -/
structure Summary where
  /-- stack depth, 0-3 -/
  depth : Nat
  /-- step state of the top entry's current step, none for code 0 -/
  step : Option StepState
  /-- top manoeuvre, none for code 0 -/
  man : Option Manoeuvre
  /-- step index, 0-3 -/
  idx : Nat
  deriving DecidableEq, Repr

/-- The last conditions of a roster entry: what the latest POSTURE from that node carried (R26). The conditions are
stored as carried and read by the entry's role (R78). -/
structure Last where
  conds : BitVec 16
  sum : Summary
  halted : Bool
  deriving DecidableEq, Repr

/-- A set of the exclusive resources (R43). -/
structure ResSet where
  pump : Bool
  rear : Bool
  kerb : Bool
  road : Bool
  deriving DecidableEq, Repr

/-- The state of a claim record (R45). -/
inductive ClaimState
  | waiting
  | granted
  deriving DecidableEq, Repr

/-- A claim record (R45). -/
structure ClaimRec where
  claimant : Node
  set : ResSet
  units : Nat
  man : Manoeuvre
  state : ClaimState
  deriving DecidableEq, Repr

/-- The halt state (R150): the originator, present exactly while the latch is set, and the halt count. -/
structure HaltState where
  latch : Option Node
  count : Nat
  deriving DecidableEq, Repr

/-- The source of a stop (R68, R150). -/
inductive StopSource
  | panel
  | pendant
  deriving DecidableEq, Repr

/-- The request of a PROBE, a REPLY and the relay slot (R195). -/
inductive ProbeReq
  | status
  | log (i : Fin 32)
  deriving DecidableEq, Repr

/-- The kinds of log record (R187). -/
inductive RecKind
  | step
  | claimPhase
  | request
  | restart
  deriving DecidableEq, Repr

/-- A log record (R187). -/
structure LogRec where
  kind : RecKind
  run : BitVec 16
  depth : Nat
  man : Option Manoeuvre
  idx : Option Nat
  outcome : RunOutcome
  cause : Option Cause
  retries : Nat
  startTag : BitVec 16
  endTag : Option (BitVec 16)
  height : Option Nat
  deriving DecidableEq, Repr

/-- A status summary, the content of a REPLY to STATUS (R195). -/
structure StatusSummary where
  mstate : MState
  cause : Option Cause
  conds : BitVec 16
  sum : Summary
  halt : HaltState
  take : BitVec 8
  deriving DecidableEq, Repr

/-- The content of a REPLY (R195). -/
inductive ReplyContent
  | none
  | summary (x : StatusSummary)
  | record (x : LogRec)
  deriving DecidableEq, Repr

/-! ## The link controller -/

/-- The ten frame kinds, in the order of their classes 0-9 (chapter 1, section 1.2). -/
inductive Kind
  | halt
  | clear
  | evict
  | yield
  | claim
  | snapshot
  | join
  | posture
  | probe
  | reply
  deriving DecidableEq, Repr

/-- A pending frame's content. The content of a SNAPSHOT, a POSTURE and a JOIN is built when an attempt starts (R14). -/
inductive TxFrame
  | halt (src : StopSource)
  | clear
  | evict (subject : Node)
  | yield
  | claim (set : ResSet) (units : Nat) (man : Manoeuvre)
  | snapshot
  | join
  | posture
  | probe (target : Node) (req : ProbeReq)
  | reply (requester : Node) (req : ProbeReq) (content : ReplyContent)
  deriving DecidableEq, Repr

/-- An entry of the transmit list: the frame, its attempt count (R11), and whether it leaves the list when the attempt
now on the line ends untaken (R16, R112, R151). -/
structure TxEntry where
  frame : TxFrame
  attempts : Nat
  withdrawn : Bool
  deriving DecidableEq, Repr

/-- A taken frame in the receive queue (R9), with the take count noted at its take (R37). -/
structure RxRec where
  kind : Kind
  sender : Node
  payload : List Byte
  noted : BitVec 8
  deriving DecidableEq, Repr

/-- What this node has on the line. -/
inductive LineUse
  /-- no frame of its own -/
  | quiet
  /-- an attempt of its own: the pending frame it belongs to and the payload fixed at its start (R4, R14) -/
  | sending (kind : Kind) (subject : Option Node) (payload : List Byte)
  /-- the rest of a frame whose attempt broke with a transmit error, which it neither vetoes nor takes (R6) -/
  | broken
  deriving DecidableEq, Repr

/-- The link controller (chapter 1). -/
structure LinkUnit where
  /-- the transmit list, in the order the frames were queued -/
  tx : List TxEntry
  /-- the receive queue, oldest first -/
  rx : List RxRec
  line : LineUse
  vetoRun : Nat
  /-- the transmit guard has cut the driver off (R13) -/
  driverCut : Bool
  /-- the idle gap has been seen since the node began to watch the line (R19) -/
  footing : Bool
  deriving DecidableEq, Repr

/-! ## The membership unit -/

/-- A roster entry (R26, R79). `heard` is HEARD, `agree` is AGREE, `fresh` is FRESH when true. -/
structure Entry where
  state : EState
  role : Option RoleSide
  last : Option Last
  heard : Bool
  agree : Bool
  fresh : Bool
  silence : Timer
  deriving DecidableEq, Repr

/-- A roster entry after reset and after isolation (R26, R39). -/
def Entry.blank : Entry :=
  { state := .unknown, role := none, last := none, heard := false, agree := true, fresh := false, silence := none }

/-- The membership unit (chapter 2). -/
structure MemberUnit where
  mstate : MState
  cause : Option Cause
  roster : Vector Entry 8
  takeCount : BitVec 8
  bodyFit : Option (Fin 8)
  /-- the snapshot owed set (R30), one mark per node number -/
  owed : Vector Bool 8
  listenTimer : Timer
  joinTimer : Timer
  restTimer : Timer
  deriving DecidableEq, Repr

/-! ## The claim table unit -/

/-- The claim list, oldest first, and the halt state (chapters 3 and 8). -/
structure ClaimUnit where
  claims : List ClaimRec
  halt : HaltState
  deriving DecidableEq, Repr

/-- The halt state while the latch is clear (R150). -/
def HaltState.off : HaltState := { latch := none, count := 0 }

/-! ## The line unit and the posture unit -/

/-- The pendant functions, each the name of one HELD manoeuvre (R73). -/
inductive LiftFn
  | up
  | down
  | tiltUp
  | tiltDown
  | fold
  | unfold
  deriving DecidableEq, Repr

/-- A switch input: the raw contact, the filtered value (active or not) and the filter timer (R67). -/
structure Input where
  closed : Bool
  active : Bool
  timer : Timer
  deriving DecidableEq, Repr

/-- The held-request detector (R73). -/
inductive HeldDetector
  | armed
  | held (f : LiftFn)
  | spent
  deriving DecidableEq, Repr

/-- The line unit (chapter 4). -/
structure LineUnit where
  inputs : Vector Input 16
  openLatch : Bool
  closeLatch : Bool
  window : Timer
  held : HeldDetector
  /-- the height count, none while UNKNOWN (R75) -/
  height : Option Nat
  standstill : Bool
  standTimer : Timer
  /-- output fault latches, one per output (R70) -/
  outLatch : Vector Bool 12
  deriving DecidableEq, Repr

/-- The posture unit (R82). -/
structure PostureUnit where
  period : Timer
  spacing : Timer
  changed : Bool
  deriving DecidableEq, Repr

/-! ## The run engine -/

/-- How an entry of the run stack came about (R98). -/
inductive Origin
  | operator
  | nest
  deriving DecidableEq, Repr

/-- The entry state of a nested entry (R98). -/
inductive NestState
  | walking
  | suspended
  deriving DecidableEq, Repr

/-- An entry of the run stack (R98). -/
structure RunEntry where
  man : Manoeuvre
  num : BitVec 16
  origin : Origin
  /-- index of the current step, 0 before the first -/
  idx : Nat
  /-- steps that have not yet ended -/
  left : Nat
  /-- run number of the entry below, on NEST entries alone -/
  back : Option (BitVec 16)
  /-- the step to restart when the entry above completes -/
  resume : Option Nat
  /-- retries used of the suspended step, kept with it (R110, R122) -/
  kept : Nat
  /-- the entry state of a nested entry; the base's is the run state -/
  nest : Option NestState
  deriving DecidableEq, Repr

/-- The run states but IDLE, which is the empty stack (R100). -/
inductive RunPhase
  | claiming
  | running
  | paused
  | ending
  deriving DecidableEq, Repr

/-- How the base stands toward its claim (R98). -/
inductive ClaimMode
  | queued
  | deferred
  | held
  | none
  deriving DecidableEq, Repr

/-- The run stack while it is not empty: the base entry with the fields it alone carries (R98), and the nested entries,
top entry first. -/
structure Run where
  base : RunEntry
  nests : List RunEntry
  phase : RunPhase
  nestCount : Nat
  leadServed : Bool
  mode : ClaimMode
  /-- time tag of the entry into CLAIMING (R101, R105) -/
  claimTag : BitVec 16
  /-- time tag of the entry into RUNNING, if it ran (R101) -/
  runTag : Option (BitVec 16)
  /-- the ending outcome with its cause, fixed on entering ENDING (R113) -/
  ending : Option (RunOutcome × Option Cause)
  /-- a switch that claims anew still owes the YIELD of the old record (R120) -/
  owesYield : Bool
  deriving DecidableEq, Repr

/-- The run engine (chapter 6). -/
structure RunUnit where
  run : Option Run
  counter : BitVec 16
  claimWait : Timer
  /-- the run function (LIFT) -/
  fn : Option LiftFn
  deriving DecidableEq, Repr

/-! ## The step engine and the channels -/

/-- The gate a step has reached in ARMING (R126). -/
inductive Gate
  | check
  | fence
  | skip
  | way
  deriving DecidableEq, Repr

/-- The current step (R124, R125); which step it is, the top entry of the run stack says. -/
structure CurStep where
  state : StepState
  gate : Gate
  /-- this entry into ARMING tests the skip-if field (R125) -/
  testSkip : Bool
  /-- the limit read at the first entry into DRIVING (R132); none before it and for a step with limit none -/
  limit : Option Nat
  /-- its record ended NESTED and the next entry into ARMING begins a new one (R125, R136) -/
  noRecord : Bool
  /-- the outcome an ENDED step hands to the run engine (R108) -/
  result : Option (RunOutcome × Option Cause)
  deriving DecidableEq, Repr

/-- The step engine (chapter 7). -/
structure StepUnit where
  cur : Option CurStep
  /-- retries used of the current step (R125); 0 with none -/
  retries : Nat
  /-- time in DRIVING since the last entry into ARMING, in ms (R90); 0 with no current step -/
  driveTime : Nat
  lead : Timer
  recovery : Timer
  priming : Timer
  pause : Timer
  deriving DecidableEq, Repr

/-- The directions of the channels (R88). -/
inductive Dir
  | up
  | down
  | inward
  | outward
  | openDir
  | closeDir
  | release
  deriving DecidableEq, Repr

/-- The channel states; the direction is present while DRIVING (R140). -/
inductive ChanState
  | closed
  | opening
  | opened
  | driving (d : Dir)
  | holding
  | relieving
  | resting
  | faulted
  deriving DecidableEq, Repr

/-- An actuator channel (R140). -/
structure ChanRec where
  state : ChanState
  /-- the held OPEN mark -/
  held : Bool
  settle : Timer
  deriving DecidableEq, Repr

/-- A channel after reset (R149). -/
def ChanRec.closed : ChanRec := { state := .closed, held := false, settle := none }

/-- The channels of the LIFT role and of the HATCH role; those of another role stay CLOSED (R140). -/
structure ChanUnit where
  lift : ChanRec
  tilt : ChanRec
  fold : ChanRec
  ram : ChanRec
  latch : ChanRec
  deriving DecidableEq, Repr

/-! ## Pump, beacons, indicators -/

/-- The pump service (chapter 9). -/
structure PumpUnit where
  on : Bool
  /-- running time in ms -/
  runTime : Nat
  idle : Timer
  /-- the rest timer, which runs exactly while the pump is resting (R167) -/
  rest : Timer
  plaus : Timer
  /-- the pressure switch is judged faulty (R169) -/
  faulty : Bool
  deriving DecidableEq, Repr

/-- The states of a beacon group (R174). -/
inductive GroupState
  | dark
  | warming
  | lit
  | tail
  | failed
  deriving DecidableEq, Repr

/-- A beacon group (chapter 10, state table). -/
structure GroupRec where
  state : GroupState
  timer : Timer
  demanded : Bool
  deriving DecidableEq, Repr

/-- A group after reset (R174). -/
def GroupRec.dark : GroupRec := { state := .dark, timer := none, demanded := false }

/-- The progress of the start lamp test (R180). -/
inductive LampTest
  | notRun
  | slot (g : Group)
  | done
  deriving DecidableEq, Repr

/-- A flash: its reload timer and whether it is in the on phase. -/
structure Flash where
  timer : Timer
  on : Bool
  deriving DecidableEq, Repr

/-- A flash that is not running. -/
def Flash.off : Flash := { timer := none, on := false }

/-- The beacon controller (chapter 10). -/
structure BeaconUnit where
  rear : GroupRec
  kerb : GroupRec
  road : GroupRec
  flags : GroupRec
  hazard : Bool
  flash : Flash
  test : LampTest
  slot : Timer
  deriving DecidableEq, Repr

/-! ## Log and service port -/

/-- One held slot of the log ring (R190). -/
structure LogSlot where
  slot : Nat
  data : LogRec
  deriving DecidableEq, Repr

/-- The time tag (R186) and the log ring (R190): the records oldest first, each with its slot, and the write position. -/
structure LogUnit where
  tag : BitVec 16
  slots : List LogSlot
  wpos : Nat
  deriving DecidableEq, Repr

/-- The run state as an answer shows it (R100). -/
inductive RunState
  | idle
  | claiming
  | running
  | paused
  | ending
  deriving DecidableEq, Repr

/-- A line of an answer (R193, R194, R196), its values kept as the things they name; `AnswerLine.text` in
Machine/PortText.lean gives its characters. -/
inductive AnswerLine
  | node (n : Node) (role : Role) (side : Option Side) (fit : Fin 8) (bodyFit : Option (Fin 8))
  | state (m : MState) (cause : Option Cause)
  | take (n : BitVec 8)
  | time (n : BitVec 16)
  | cond (l : List Cond)
  | run (sum : Summary) (state : Option RunState)
  | halt (h : HaltState)
  | chan (l : List (Chan × ChanState))
  | log (held : Nat) (inProgress : Option Nat)
  | entry (n : Node) (state : EState) (role : Option RoleSide) (heard agree fresh : Bool) (conds : Option (List Cond))
  | supply (units : Nat)
  | claim (r : ClaimRec)
  | record (i : Nat) (r : LogRec)
  | ok
  | error
  | noReply
  | notMember
  | none
  deriving DecidableEq, Repr

/-- The answer in progress (R193). -/
inductive Answer
  /-- the port is not answering -/
  | idle
  /-- a PEER request waits for its relay, which counts as answering -/
  | relaying
  /-- the text being sent -/
  | sending (lines : List AnswerLine)
  /-- the owed BUSY line being sent -/
  | busyLine
  deriving DecidableEq, Repr

/-- The relay slot (R196). -/
structure Relay where
  target : Node
  req : ProbeReq
  deriving DecidableEq, Repr

/-- The service port (chapter 11). -/
structure PortUnit where
  buf : LineBuf
  answer : Answer
  busyOwed : Bool
  relay : Option Relay
  relayTimer : Timer
  deriving DecidableEq, Repr

/-! ## The node -/

/-- The whole state of the node, with the queue of commands that wait, first in, first out. -/
structure State where
  straps : Straps
  serial : BitVec 24
  link : LinkUnit
  member : MemberUnit
  table : ClaimUnit
  lines : LineUnit
  post : PostureUnit
  runs : RunUnit
  steps : StepUnit
  chans : ChanUnit
  pump : PumpUnit
  beacon : BeaconUnit
  /-- the flash of the CAB's FAULT lamp (R182) -/
  cab : Flash
  /-- the flash of NODE-OK (R185) -/
  nodeOk : Flash
  log : LogUnit
  port : PortUnit
  pending : List Instr
  deriving DecidableEq, Repr

/-- The reasons the machine can stop with a fault: none. The spec gives every one of its events an effect in every
state, so no command of this block faults. Safe: there is nothing to raise. -/
inductive Fault
  deriving DecidableEq, Repr

/-- The reasons a command can be refused. -/
inductive Refusal
  /-- Raised by an arm of `exec` whose command has no meaning yet, named by its mnemonic; no arm of the finished model
  raises it. Safe: the machine stops. -/
  | notModelled (mnemonic : String)
  deriving DecidableEq, Repr

/-! ## Reset -/

/-- A switch input at the end of reset: its filtered value is inactive, and it carries the contact it finds. -/
def Input.atReset (closed : Bool) : Input := { closed := closed, active := false, timer := none }

/-- The node right after power-on reset. Every field holds the value its chapter gives for reset (R20, R42, R48, R84,
R99, R124, R149, R150, R166, R170, R174, R184, R185, R186, R191, R198); the straps are all-low, the serial and the
contacts are `Config`'s (assumptions 4 and 5). -/
def State.reset : State :=
  { straps := { node := 0, role := .cab, side := .kerb, fit := 0 }
    serial := Config.serial
    link := { tx := [], rx := [], line := .quiet, vetoRun := 0, driverCut := false, footing := false }
    member :=
      { mstate := .start, cause := none, roster := Vector.replicate 8 Entry.blank, takeCount := 0, bodyFit := none
        owed := Vector.replicate 8 false, listenTimer := none, joinTimer := none, restTimer := none }
    table := { claims := [], halt := HaltState.off }
    lines :=
      { inputs := Vector.ofFn fun i => Input.atReset (Config.contactAtPowerOn i)
        openLatch := false, closeLatch := false, window := none, held := .armed, height := none
        standstill := false, standTimer := some 2000, outLatch := Vector.replicate 12 false }
    post := { period := none, spacing := none, changed := false }
    runs := { run := none, counter := 0, claimWait := none, fn := none }
    steps := { cur := none, retries := 0, driveTime := 0, lead := none, recovery := none, priming := none, pause := none }
    chans :=
      { lift := ChanRec.closed, tilt := ChanRec.closed, fold := ChanRec.closed, ram := ChanRec.closed
        latch := ChanRec.closed }
    pump := { on := false, runTime := 0, idle := none, rest := none, plaus := none, faulty := false }
    beacon :=
      { rear := GroupRec.dark, kerb := GroupRec.dark, road := GroupRec.dark, flags := GroupRec.dark
        hazard := false, flash := Flash.off, test := .notRun, slot := none }
    cab := Flash.off
    nodeOk := Flash.off
    log := { tag := 0, slots := [], wpos := 0 }
    port := { buf := LineBuf.empty, answer := .idle, busyOwed := false, relay := none, relayTimer := none }
    pending := [] }

end Sys2Proof.Machine
end

