-- ==== Sys2Proof/Machine/Catalogue.lean ====
section
/-! DEFINITION. The data fixed in the part: the fitting table (R22), the durations of the named timers, and the
manoeuvre catalogue (chapter 5). -/

namespace Sys2Proof.Machine

/-! ## The fitting table -/

/-- A row of the fitting table (R22): bed stroke in pulses, lead and hatch travel limit in ms, pump duty limit in s. -/
structure FitRow where
  bed : Nat
  lead : Nat
  travel : Nat
  duty : Nat
  deriving DecidableEq, Repr

/-- The fitting table (R22). -/
def fitTable (code : Fin 8) : FitRow :=
  match code with
  | 0 => ⟨480, 1500, 6000, 90⟩
  | 1 => ⟨560, 1500, 6000, 90⟩
  | 2 => ⟨640, 2000, 8000, 120⟩
  | 3 => ⟨720, 2000, 8000, 120⟩
  | 4 => ⟨800, 2000, 8000, 120⟩
  | 5 => ⟨880, 3000, 10000, 150⟩
  | 6 => ⟨960, 3000, 10000, 150⟩
  | 7 => ⟨1040, 3000, 12000, 180⟩

/-- The row in force: that of the body fitting code, or of the node's own while it holds none (R22). -/
def State.fitRow (s : State) : FitRow := fitTable (s.member.bodyFit.getD s.straps.fit)

/-! ## Durations in milliseconds -/

/-- R24 -/
def listenMs : Nat := 450
/-- R25 -/
def joinRepeatMs : Nat := 500
/-- R39 -/
def isolationRestMs : Nat := 500
/-- R34 -/
def silenceMs : Nat := 150
/-- The filter time of a stop loop (R67). -/
def stopFilterMs : Nat := 5
/-- The filter time of every other switch input (R67). -/
def switchFilterMs : Nat := 20
/-- R71 -/
def windowMs : Nat := 50
/-- R76 -/
def standstillMs : Nat := 2000
/-- R82 -/
def posturePeriodMs : Nat := 50
/-- R82 -/
def postureSpacingMs : Nat := 10
/-- R103 -/
def claimWaitMs : Nat := 10000
/-- R115 -/
def pauseMs : Nat := 10000
/-- R128, R134 -/
def recoveryMs : Nat := 2000
/-- R131 -/
def primingMs : Nat := 3000
/-- OPENING of a channel (R141) -/
def openingMs : Nat := 60
/-- RELIEVING of a channel (R141) -/
def relievingMs : Nat := 120
/-- RESTING of a channel (R141) -/
def restingMs : Nat := 80
/-- R166 -/
def pumpIdleMs : Nat := 10000
/-- R169 -/
def plausibilityMs : Nat := 2000
/-- R174 -/
def warmingMs : Nat := 100
/-- R174 -/
def tailMs : Nat := 2000
/-- R179 -/
def hazardFlashMs : Nat := 500
/-- R180 -/
def testSlotMs : Nat := 500
/-- R182 -/
def cabFlashMs : Nat := 250
/-- The half-period of the slow NODE-OK flash (R185). -/
def slowFlashMs : Nat := 500
/-- The half-period of the fast NODE-OK flash (R185). -/
def fastFlashMs : Nat := 125
/-- R196 -/
def relayMs : Nat := 250

/-- The pump duty limit of the row in force, in ms (R166, R167). -/
def State.dutyMs (s : State) : Nat := s.fitRow.duty * 1000

/-- The rest of the row in force, half the pump duty limit, in ms (R167). -/
def State.restMs (s : State) : Nat := s.fitRow.duty * 500

/-! ## Manoeuvres -/

/-- The code of a manoeuvre (R86). -/
def Manoeuvre.code : Manoeuvre → Nat
  | .unfold => 1
  | .lower => 2
  | .raise => 3
  | .tiltDown => 4
  | .tiltUp => 5
  | .fold => 6
  | .level => 7
  | .openHatch => 8
  | .closeHatch => 9
  | .ease => 10

/-- The manoeuvre of a code, none for 0 and above 10 (R86). -/
def Manoeuvre.ofCode : Nat → Option Manoeuvre
  | 1 => some .unfold
  | 2 => some .lower
  | 3 => some .raise
  | 4 => some .tiltDown
  | 5 => some .tiltUp
  | 6 => some .fold
  | 7 => some .level
  | 8 => some .openHatch
  | 9 => some .closeHatch
  | 10 => some .ease
  | _ => none

/-- The manoeuvre a pendant function names (R73). -/
def LiftFn.manoeuvre : LiftFn → Manoeuvre
  | .up => .raise
  | .down => .lower
  | .tiltUp => .tiltUp
  | .tiltDown => .tiltDown
  | .fold => .fold
  | .unfold => .unfold

/-- The empty resource set, which no claim names. -/
def ResSet.empty : ResSet := { pump := false, rear := false, kerb := false, road := false }

/-- PUMP with the zone of a flank (R87). -/
def ResSet.pumpSide : Side → ResSet
  | .kerb => { ResSet.empty with pump := true, kerb := true }
  | .road => { ResSet.empty with pump := true, road := true }

/-- The claim of a manoeuvre: resource set and units; none for an IN-CLAIM manoeuvre (R86, R87). -/
def Manoeuvre.claim (side : Side) : Manoeuvre → Option (ResSet × Nat)
  | .unfold | .raise | .tiltUp | .fold => some ({ ResSet.empty with pump := true, rear := true }, 10)
  | .lower | .tiltDown => some ({ ResSet.empty with rear := true }, 2)
  | .openHatch => some (ResSet.pumpSide side, 11)
  | .closeHatch => some (ResSet.pumpSide side, 9)
  | .level | .ease => none

/-- The exclusive resources an IN-CLAIM manoeuvre needs in the base claim (R86, R87). -/
def Manoeuvre.needs : Manoeuvre → ResSet
  | .level | .ease => { ResSet.empty with pump := true }
  | _ => ResSet.empty

/-! ## Steps -/

/-- A term of an interlock (R80): an own condition with a value, either of two own conditions true, or a condition of
the node that holds a role. -/
inductive Term
  | own (c : Cond) (v : Bool)
  | either (c d : Cond)
  | peer (r : Role) (c : Cond) (v : Bool)
  deriving DecidableEq, Repr

/-- The named height of a height end condition (R90). -/
inductive HeightEnd
  | floor
  | bed
  deriving DecidableEq, Repr

/-- An end condition (R90); a step names one or two, and two are joined by "or". -/
inductive EndCond
  | cond (c : Cond) (v : Bool)
  | height (h : HeightEnd)
  | driveTime (ms : Nat)
  deriving DecidableEq, Repr

/-- The limit field of a step (R91). -/
inductive StepLimit
  | none
  | fixed (ms : Nat)
  | travel
  deriving DecidableEq, Repr

/-- The on-fail field of a step (R91). -/
inductive OnFail
  | abort
  | skip
  deriving DecidableEq, Repr

/-- A step of the catalogue (section 5.2). -/
structure StepDef where
  chan : Chan
  dir : Dir
  skipIf : Option (Cond × Bool)
  lead : Bool
  powered : Bool
  interlock : List Term
  ends : List EndCond
  limit : StepLimit
  retries : Nat
  onFail : OnFail
  autoRelieve : Bool
  fence : Bool
  nest : Option (Cond × Bool × Manoeuvre)
  deriving DecidableEq, Repr

/-- The terms of the standard lists that read the CAB (R89). -/
def cabTerms : List Term := [.peer .cab .brakeSet true, .peer .cab .standstill true, .peer .cab .bodyOn true]

/-- I-REAR (R89). -/
def iRear : List Term := cabTerms ++ [.peer .beacon .rearLit true, .peer .beacon .rearFailed false]

/-- I-SIDE on a node of the flank (R89). -/
def iSide : Side → List Term
  | .kerb => cabTerms ++ [.peer .beacon .kerbLit true, .peer .beacon .kerbFailed false]
  | .road => cabTerms ++ [.peer .beacon .roadLit true, .peer .beacon .roadFailed false]

/-- What most steps of the catalogue share (R94, R95): lead yes, powered, one retry, on-fail ABORT, auto-relieve, no
skip-if, no fence, no nest trigger. -/
def StepDef.common (chan : Chan) (dir : Dir) (interlock : List Term) (ends : List EndCond) (limit : StepLimit) :
    StepDef :=
  { chan, dir, interlock, ends, limit, skipIf := none, lead := true, powered := true, retries := 1, onFail := .abort
    autoRelieve := true, fence := false, nest := none }

/-- TILT UP to LEVEL, the first step of RAISE and FOLD and the step of TILT-UP (R94). -/
def tiltLevelStep : StepDef :=
  StepDef.common .tilt .up (iRear ++ [.own .unfolded true]) [.cond .level true] (.fixed 3000)

/-- LIFT UP to bed height, the second step of RAISE and FOLD (R94). -/
def liftBedStep : StepDef :=
  StepDef.common .lift .up (iRear ++ [.own .unfolded true]) [.cond .atBed true, .height .bed] (.fixed 15000)

/-- The steps of a manoeuvre on a node of a side (R94, R95). -/
def Manoeuvre.steps (side : Side) : Manoeuvre → List StepDef
  | .unfold =>
    [StepDef.common .fold .outward (iRear ++ [.either .folded .atBed]) [.cond .unfolded true] (.fixed 8000)]
  | .lower =>
    [{ StepDef.common .lift .down (iRear ++ [.own .unfolded true]) [.cond .atFloor true, .height .floor] (.fixed 15000)
       with powered := false, retries := 0 }]
  | .raise =>
    [{ tiltLevelStep with skipIf := some (.level, true) }, { liftBedStep with nest := some (.level, false, .level) }]
  | .tiltDown =>
    [{ StepDef.common .tilt .down (iRear ++ [.own .atFloor true]) [.driveTime 2500] .none
       with powered := false, retries := 0 }]
  | .tiltUp => [tiltLevelStep]
  | .fold =>
    [{ tiltLevelStep with skipIf := some (.level, true) }, { liftBedStep with skipIf := some (.atBed, true) },
     { StepDef.common .fold .inward (iRear ++ [.own .atBed true]) [.cond .folded true] (.fixed 8000)
       with fence := true }]
  | .level =>
    [{ StepDef.common .tilt .up iRear [.cond .level true] (.fixed 2000) with lead := false, retries := 0 }]
  | .openHatch =>
    [{ StepDef.common .latch .release (iSide side) [.cond .latched false] (.fixed 1000)
       with skipIf := some (.latched, false), powered := false, autoRelieve := false },
     { StepDef.common .ram .openDir (iSide side) [.cond .openFull true] .travel
       with skipIf := some (.openFull, true) }]
  | .closeHatch =>
    [{ StepDef.common .ram .closeDir (iSide side ++ [.own .edgeClear true]) [.cond .latched true] .travel
       with nest := some (.edgeClear, false, .ease) }]
  | .ease =>
    [{ StepDef.common .ram .openDir (iSide side) [.driveTime 800] .none
       with lead := false, retries := 0, autoRelieve := false }]

/-- The step at an index 1, 2, 3 of a manoeuvre. -/
def Manoeuvre.step (side : Side) (m : Manoeuvre) (idx : Nat) : Option StepDef :=
  match idx with
  | 0 => none
  | k + 1 => (m.steps side)[k]?

/-- The outputs of a channel: its first output, and whether it is a CIRCUIT (selector and two directions) or a SOLENOID
(R70, R88). -/
def chanFirstOutput : Chan → Nat
  | .lift => 0
  | .tilt => 3
  | .fold => 6
  | .ram => 0
  | .latch => 3

/-- The channels of a role (R140). -/
def Role.chans : Role → List Chan
  | .lift => [.lift, .tilt, .fold]
  | .hatch => [.ram, .latch]
  | .cab | .beacon => []

/-- The channel an output belongs to in a role (R70). -/
def Role.chanOfOutput (r : Role) (o : Fin 12) : Option Chan :=
  match r with
  | .lift => if o.val < 3 then some .lift else if o.val < 6 then some .tilt else if o.val < 9 then some .fold else none
  | .hatch => if o.val < 3 then some .ram else if o.val = 3 then some .latch else none
  | .cab | .beacon => none

/-- The lamp group an output belongs to in a role (R70, R174). -/
def Role.groupOfOutput (r : Role) (o : Fin 12) : Option Group :=
  match r with
  | .beacon =>
    if o.val < 2 then some .rear else if o.val = 2 then some .kerb else if o.val = 3 then some .road
    else if o.val < 6 then some .flags else none
  | .cab | .lift | .hatch => none

/-- The offset from the selector of the output a direction drives (R88): the first direction named is 1, the second 2. -/
def Dir.output : Dir → Nat
  | .up => 1
  | .down => 2
  | .inward => 1
  | .outward => 2
  | .openDir => 1
  | .closeDir => 2
  | .release => 0

end Sys2Proof.Machine
end

