-- ==== Sys2Proof/Machine/Operands.lean ====
section
/-! DEFINITION. The forms in which values travel: the frame's bits and its CRC (R2, R3), the codes of every payload
field, and the building and reading of the ten frame kinds' payloads with the malformed cases of R18. -/

namespace Sys2Proof.Machine

/-! ## The frame envelope -/

/-- The `w` low bits of a number, most significant first (R2). -/
def bitsOf (w n : Nat) : List Bool := (List.range w).reverse.map n.testBit

/-- The payload's bits: byte by byte, each most significant bit first (R2). -/
def payloadBits (p : List Byte) : List Bool := p.flatMap fun b => bitsOf 8 b.toNat

/-- The identifier: 8 times the kind class plus the sender's number (R2). -/
def identifier (cls : Nat) (sender : Node) : Nat := 8 * cls + sender.val

/-- The bits the CRC covers: identifier, length and payload (R3). -/
def checkedBits (cls : Nat) (sender : Node) (p : List Byte) : List Bool :=
  bitsOf 7 (identifier cls sender) ++ bitsOf 6 p.length ++ payloadBits p

/-- One bit enters the CRC register; the generator is x^15+x^13+x^11+x^9+x^7+x^5+x^3+x^2+1 (R3). How a
bit enters is the usual serial form (DEDUCED, assumption 47). -/
def crcBit (r : BitVec 15) (b : Bool) : BitVec 15 :=
  if r.msb != b then (r <<< 1) ^^^ 0x2AAD#15 else r <<< 1

/-- The CRC of a run of bits, from an all-zero register (R3). -/
def crc15 (bits : List Bool) : BitVec 15 := bits.foldl crcBit 0

/-- A frame's bits from the start bit (dominant, 0) to the closing bit (dominant, 0) (R2, R3). -/
def frameBits (cls : Nat) (sender : Node) (p : List Byte) : List Bool :=
  [false] ++ checkedBits cls sender p ++ bitsOf 15 (crc15 (checkedBits cls sender p)).toNat ++ [false]

/-- A receiver finds the check correct (R3). -/
def frameCheckOk (f : LineFrame) : Bool := f.check == crc15 (checkedBits f.cls.val f.sender f.payload)

/-! ## Frame kinds -/

/-- The kind class (section 1.2). -/
def Kind.cls : Kind → Nat
  | .halt => 0
  | .clear => 1
  | .evict => 2
  | .yield => 3
  | .claim => 4
  | .snapshot => 5
  | .join => 6
  | .posture => 7
  | .probe => 8
  | .reply => 9

/-- The kind of a class; classes 10-15 are undefined (section 1.2). -/
def Kind.ofCls : Nat → Option Kind
  | 0 => some .halt
  | 1 => some .clear
  | 2 => some .evict
  | 3 => some .yield
  | 4 => some .claim
  | 5 => some .snapshot
  | 6 => some .join
  | 7 => some .posture
  | 8 => some .probe
  | 9 => some .reply
  | _ => none

/-- The table frames (section 1.2, R9). -/
def Kind.isTable : Kind → Bool
  | .halt | .clear | .evict | .yield | .claim | .snapshot | .join => true
  | .posture | .probe | .reply => false

/-- The kind of a pending frame. -/
def TxFrame.kind : TxFrame → Kind
  | .halt _ => .halt
  | .clear => .clear
  | .evict _ => .evict
  | .yield => .yield
  | .claim _ _ _ => .claim
  | .snapshot => .snapshot
  | .join => .join
  | .posture => .posture
  | .probe _ _ => .probe
  | .reply _ _ _ => .reply

/-- The subject by which pending EVICTs are told apart (R14). -/
def TxFrame.subject : TxFrame → Option Node
  | .evict n => some n
  | _ => none

/-! ## Field codes -/

/-- A number as one byte. -/
def byte (n : Nat) : Byte := BitVec.ofNat 8 n

/-- A node number field: 0-7, out of range otherwise (R18). -/
def readNodeByte (b : Byte) : Option Node := if h : b.toNat < 8 then some ⟨b.toNat, h⟩ else none

/-- A 16-bit field, most significant byte first (R2). -/
def word16 (hi lo : Byte) : BitVec 16 := hi ++ lo

/-- The two bytes of a 16-bit field, most significant first (R2). -/
def bytes16 (w : BitVec 16) : List Byte := [w.extractLsb' 8 8, w.extractLsb' 0 8]

/-- The three bytes of a serial, most significant first (R2). -/
def bytes24 (w : BitVec 24) : List Byte := [w.extractLsb' 16 8, w.extractLsb' 8 8, w.extractLsb' 0 8]

/-- A serial from its three bytes. -/
def word24 (a b c : Byte) : BitVec 24 := (a ++ b) ++ c

/-- The role of strap levels (R21). -/
def Role.ofCode (c : Fin 4) : Role :=
  match c with
  | 0 => .cab
  | 1 => .lift
  | 2 => .hatch
  | 3 => .beacon

/-- The role and side a node joins with (R21). -/
def Straps.roleSide (t : Straps) : RoleSide :=
  match t.role with
  | .cab => .cab
  | .lift => .lift
  | .hatch => .hatch t.side
  | .beacon => .beacon

/-- The role of a role and side. -/
def RoleSide.role : RoleSide → Role
  | .cab => .cab
  | .lift => .lift
  | .hatch _ => .hatch
  | .beacon => .beacon

/-- The side of a role and side, for HATCH alone (assumption 35). -/
def RoleSide.side : RoleSide → Option Side
  | .hatch d => some d
  | .cab | .lift | .beacon => none

/-- Role with side in JOIN (R21). -/
def RoleSide.code : RoleSide → Nat
  | .cab => 0
  | .lift => 2
  | .hatch .kerb => 4
  | .hatch .road => 5
  | .beacon => 6

/-- Every other code is out of range (R21). -/
def RoleSide.ofCode : Nat → Option RoleSide
  | 0 => some .cab
  | 2 => some .lift
  | 4 => some (.hatch .kerb)
  | 5 => some (.hatch .road)
  | 6 => some .beacon
  | _ => none

/-- The state code of a roster byte (R31). -/
def EState.code : EState → Nat
  | .unknown => 0
  | .joining => 1
  | .member => 2
  | .absent => 3
  | .barred => 4

/-- A state code above 4 is out of range (R31). -/
def EState.ofCode : Nat → Option EState
  | 0 => some .unknown
  | 1 => some .joining
  | 2 => some .member
  | 3 => some .absent
  | 4 => some .barred
  | _ => none

/-- The role part of a roster byte: as in JOIN, or 8 for none (R31). -/
def roleCode : Option RoleSide → Nat
  | some r => r.code
  | none => 8

/-- A roster byte: 16 times the state code plus the role part (R31). -/
def rosterByte (st : EState) (r : Option RoleSide) : Byte := byte (16 * st.code + roleCode r)

/-- The state and role of a roster byte, none when out of range (R31). -/
def readRosterByte (b : Byte) : Option (EState × Option RoleSide) :=
  match EState.ofCode (b.toNat / 16) with
  | none => none
  | some st =>
    if b.toNat % 16 = 8 then some (st, none)
    else
      match RoleSide.ofCode (b.toNat % 16) with
      | some r => some (st, some r)
      | none => none

/-- The code of a resource set: the sum of the weights (R44). -/
def ResSet.code (r : ResSet) : Nat :=
  r.pump.toNat + 2 * r.rear.toNat + 4 * r.kerb.toNat + 8 * r.road.toNat

/-- The set of a code 0-15. -/
def ResSet.ofCode (n : Nat) : ResSet :=
  { pump := n.testBit 0, rear := n.testBit 1, kerb := n.testBit 2, road := n.testBit 3 }

/-- The two bytes of a halt state (R150). -/
def HaltState.bytes (h : HaltState) : List Byte :=
  match h.latch with
  | none => [byte 0, byte h.count]
  | some n => [byte (8 + n.val), byte h.count]

/-- A halt state from its two bytes; the out-of-range codes of R150 give none. -/
def readHalt (l c : Byte) : Option HaltState :=
  if l.toNat = 0 then (if c.toNat = 0 then some HaltState.off else none)
  else if h : 8 ≤ l.toNat ∧ l.toNat < 16 then
    if 1 ≤ c.toNat ∧ c.toNat ≤ 15 then some { latch := some ⟨l.toNat - 8, by omega⟩, count := c.toNat } else none
  else none

/-- The code of a step state (R78). -/
def StepState.code : StepState → Nat
  | .arming => 1
  | .leading => 2
  | .opening => 3
  | .priming => 4
  | .driving => 5
  | .stalled => 6
  | .paused => 7
  | .closing => 8
  | .ended => 9

/-- The step state of a code 1-9. -/
def StepState.ofCode : Nat → Option StepState
  | 1 => some .arming
  | 2 => some .leading
  | 3 => some .opening
  | 4 => some .priming
  | 5 => some .driving
  | 6 => some .stalled
  | 7 => some .paused
  | 8 => some .closing
  | 9 => some .ended
  | _ => none

/-- A code that is 0 for an absent value. -/
def codeOr0 {α : Type} (f : α → Nat) : Option α → Nat
  | some x => f x
  | none => 0

/-- The three bytes of a run summary (R78). -/
def Summary.bytes (x : Summary) : List Byte :=
  [byte (16 * x.depth + codeOr0 StepState.code x.step), byte (codeOr0 Manoeuvre.code x.man), byte x.idx]

/-- A run summary from its three bytes; the malformed cases of R78 and R86 give none. -/
def readSummary (a b c : Byte) : Option Summary :=
  if a.toNat / 16 = 0 then
    (if a.toNat = 0 ∧ b.toNat = 0 ∧ c.toNat = 0 then some { depth := 0, step := none, man := none, idx := 0 } else none)
  else if a.toNat / 16 ≤ 3 ∧ a.toNat % 16 ≤ 9 ∧ c.toNat ≤ 3 then
    match Manoeuvre.ofCode b.toNat with
    | some m => some { depth := a.toNat / 16, step := StepState.ofCode (a.toNat % 16), man := some m, idx := c.toNat }
    | none => none
  else none

/-- The code of a membership state (R195). -/
def MState.code : MState → Nat
  | .start => 0
  | .listen => 1
  | .joinWait => 2
  | .member => 3
  | .isolated => 4
  | .barred => 5
  | .unfit => 6

/-- The membership state of a code 0-6. -/
def MState.ofCode : Nat → Option MState
  | 0 => some .start
  | 1 => some .listen
  | 2 => some .joinWait
  | 3 => some .member
  | 4 => some .isolated
  | 5 => some .barred
  | 6 => some .unfit
  | _ => none

/-- Every cause, in the order of the codes 1-26 (R195). -/
def allCauses : List Cause :=
  [.limit, .interlockLost, .noPressure, .channelRefused, .driverFault, .nestRefused, .nestLimit, .nestedFailed
  , .claimLost, .latched, .notMember, .hasRecord, .badClaim, .panelConflict, .busy, .panelStop, .pendantStop
  , .linkRetries, .vetoGuard, .evicted, .diverged, .fitting, .roleLimit, .duplicate, .loopTest, .transmitGuard]

/-- The code of a cause, 0 for none (R195). -/
def causeCode : Option Cause → Nat
  | none => 0
  | some c => allCauses.idxOf c + 1

/-- The cause of a code: some none for 0, none when out of range (R195). -/
def readCause (n : Nat) : Option (Option Cause) :=
  match n with
  | 0 => some none
  | k + 1 =>
    match allCauses[k]? with
    | some c => some (some c)
    | none => none

/-- Every outcome, in the order of the codes 0-16 (R195). -/
def allOutcomes : List RunOutcome :=
  [.inProgress, .done, .skipped, .failedSkipped, .failed, .complete, .stopped, .lapsed, .refused, .switched, .halted
  , .isolated, .resync, .nested, .barred, .unfit, .cut]

/-- The code of an outcome (R195). -/
def RunOutcome.code (o : RunOutcome) : Nat := allOutcomes.idxOf o

/-- The outcome of a code, none above 16 (R195). -/
def RunOutcome.ofCode (n : Nat) : Option RunOutcome := allOutcomes[n]?

/-- The code of a record kind (R195). -/
def RecKind.code : RecKind → Nat
  | .step => 0
  | .claimPhase => 1
  | .request => 2
  | .restart => 3

/-- The record kind of a code 0-3 (R195). -/
def RecKind.ofCode : Nat → Option RecKind
  | 0 => some .step
  | 1 => some .claimPhase
  | 2 => some .request
  | 3 => some .restart
  | _ => none

/-- The stop source (R150). -/
def StopSource.code : StopSource → Nat
  | .panel => 0
  | .pendant => 1

/-- The cause a stop source is logged as (R153). -/
def StopSource.cause : StopSource → Cause
  | .panel => .panelStop
  | .pendant => .pendantStop

/-- Request and record index of a PROBE (R195). -/
def ProbeReq.bytes : ProbeReq → List Byte
  | .status => [byte 0, byte 0]
  | .log i => [byte 1, byte i.val]

/-- A request from its two bytes: STATUS with index 0, LOG with 0-31 (R195). -/
def readReq (r i : Byte) : Option ProbeReq :=
  if r.toNat = 0 then (if i.toNat = 0 then some .status else none)
  else if r.toNat = 1 then (if h : i.toNat < 32 then some (.log ⟨i.toNat, h⟩) else none)
  else none

/-! ## Payloads -/

/-- The payload of a HALT (section 1.2). -/
def haltPayload (src : StopSource) : List Byte := [byte src.code]

/-- A HALT's stop source; any code but 0 and 1 is malformed (R150). -/
def readHaltPayload : List Byte → Option StopSource
  | [b] => if b.toNat = 0 then some .panel else if b.toNat = 1 then some .pendant else none
  | _ => none

/-- A CLEAR or a YIELD carries nothing (section 1.2). -/
def readEmptyPayload : List Byte → Option Unit
  | [] => some ()
  | _ :: _ => none

/-- An EVICT's subject. -/
def readEvictPayload : List Byte → Option Node
  | [b] => readNodeByte b
  | _ => none

/-- The fields of a CLAIM as sent: the codes of set and units are judged by admission, not here (R18, R44). -/
structure ClaimMsg where
  set : Nat
  units : Nat
  man : Manoeuvre
  deriving DecidableEq, Repr

/-- The payload of a CLAIM. -/
def ClaimMsg.payload (m : ClaimMsg) : List Byte := [byte m.set, byte m.units, byte m.man.code]

/-- A CLAIM's fields; a manoeuvre code of 0 or above 10 is malformed (R86). -/
def readClaimPayload : List Byte → Option ClaimMsg
  | [a, b, c] =>
    match Manoeuvre.ofCode c.toNat with
    | some m => some { set := a.toNat, units := b.toNat, man := m }
    | none => none
  | _ => none

/-- The fields of a JOIN. -/
structure JoinMsg where
  role : RoleSide
  fit : Fin 8
  serial : BitVec 24
  deriving DecidableEq, Repr

/-- The payload of a JOIN. -/
def JoinMsg.payload (m : JoinMsg) : List Byte := [byte m.role.code, byte m.fit.val] ++ bytes24 m.serial

/-- A JOIN's fields, none when malformed (R18, R21). -/
def readJoinPayload : List Byte → Option JoinMsg
  | [r, f, a, b, c] =>
    match RoleSide.ofCode r.toNat, readNodeByte f with
    | some role, some fit => some { role := role, fit := fit, serial := word24 a b c }
    | _, _ => none
  | _ => none

/-- The fields of a POSTURE (R83). -/
structure PostureMsg where
  take : BitVec 8
  /-- the member set, weight 2 to the power n for node n (R78) -/
  members : BitVec 8
  conds : BitVec 16
  sum : Summary
  halted : Bool
  serial : BitVec 24
  deriving DecidableEq, Repr

/-- The payload of a POSTURE. -/
def PostureMsg.payload (m : PostureMsg) : List Byte :=
  [m.take, m.members] ++ bytes16 m.conds ++ m.sum.bytes ++ [byte m.halted.toNat] ++ bytes24 m.serial

/-- A POSTURE's fields, none when malformed (R18, R78, R86). -/
def readPosturePayload : List Byte → Option PostureMsg
  | [t, ms, c1, c0, s1, s2, s3, h, a, b, c] =>
    match readSummary s1 s2 s3 with
    | some sum =>
      if h.toNat ≤ 1 then
        some { take := t, members := ms, conds := word16 c1 c0, sum := sum, halted := h.toNat == 1, serial := word24 a b c }
      else none
    | none => none
  | _ => none

/-- The fields of a PROBE. -/
structure ProbeMsg where
  target : Node
  req : ProbeReq
  deriving DecidableEq, Repr

/-- The payload of a PROBE. -/
def ProbeMsg.payload (m : ProbeMsg) : List Byte := byte m.target.val :: m.req.bytes

/-- A PROBE's fields, none when malformed (R18, R195). -/
def readProbePayload : List Byte → Option ProbeMsg
  | [t, r, i] =>
    match readNodeByte t, readReq r i with
    | some n, some q => some { target := n, req := q }
    | _, _ => none
  | _ => none

/-- The ten bytes of a status summary (R195). -/
def StatusSummary.bytes (x : StatusSummary) : List Byte :=
  [byte x.mstate.code, byte (causeCode x.cause)] ++ bytes16 x.conds ++ x.sum.bytes ++ x.halt.bytes ++ [x.take]

/-- A status summary from its ten bytes, none when a code is out of range (R195, R78, R150). -/
def readStatusSummary : List Byte → Option StatusSummary
  | [m, c, c1, c0, s1, s2, s3, hl, hc, t] =>
    match MState.ofCode m.toNat, readCause c.toNat, readSummary s1 s2 s3, readHalt hl hc with
    | some ms, some cause, some sum, some h =>
      some { mstate := ms, cause := cause, conds := word16 c1 c0, sum := sum, halt := h, take := t }
    | _, _, _, _ => none
  | _ => none

/-- The sixteen bytes of a step record (R195). -/
def LogRec.bytes (r : LogRec) : List Byte :=
  [byte r.kind.code] ++ bytes16 r.run ++
    [byte r.depth, byte (codeOr0 Manoeuvre.code r.man), byte (r.idx.getD 0), byte r.outcome.code,
      byte (causeCode r.cause), byte r.retries] ++
    bytes16 r.startTag ++ bytes16 (r.endTag.getD 0) ++
    [byte (r.endTag.isSome.toNat + 2 * r.height.isSome.toNat)] ++ bytes16 (BitVec.ofNat 16 (r.height.getD 0))

/-- A step record from its sixteen bytes. A code out of range, a presence byte above 3, a manoeuvre code above 10, or
code 0 in a STEP or CLAIM-PHASE record gives none (R86, R195). Plain numbers are not judged, and the bytes of an absent end
tag or height are not read (DEDUCED, assumption 17). -/
def readLogRec : List Byte → Option LogRec
  | [k, r1, r0, d, m, i, o, c, u, s1, s0, e1, e0, p, h1, h0] =>
    match RecKind.ofCode k.toNat, RunOutcome.ofCode o.toNat, readCause c.toNat with
    | some kind, some out, some cause =>
      if p.toNat ≤ 3 ∧ m.toNat ≤ 10 ∧ (m.toNat = 0 → kind = .request ∨ kind = .restart) then
        some
          { kind := kind, run := word16 r1 r0, depth := d.toNat, man := Manoeuvre.ofCode m.toNat
            idx := if i.toNat = 0 then none else some i.toNat
            outcome := out, cause := cause, retries := u.toNat, startTag := word16 s1 s0
            endTag := if p.toNat.testBit 0 then some (word16 e1 e0) else none
            height := if p.toNat.testBit 1 then some (word16 h1 h0).toNat else none }
      else none
    | _, _, _ => none
  | _ => none

/-- The fields of a REPLY. -/
structure ReplyMsg where
  requester : Node
  req : ProbeReq
  content : ReplyContent
  deriving DecidableEq, Repr

/-- The content-kind byte and the content of a REPLY (R195). -/
def ReplyContent.bytes : ReplyContent → List Byte
  | .none => [byte 0]
  | .summary x => byte 1 :: x.bytes
  | .record r => byte 2 :: r.bytes

/-- The payload of a REPLY. -/
def ReplyMsg.payload (m : ReplyMsg) : List Byte := byte m.requester.val :: (m.req.bytes ++ m.content.bytes)

/-- The content of a REPLY from its kind byte and the rest; a kind that disagrees with the length or does not fit the
request gives none (R18, R195). -/
def readReplyContent (q : ProbeReq) (k : Nat) (rest : List Byte) : Option ReplyContent :=
  match k, q, rest with
  | 0, _, [] => some .none
  | 1, .status, x =>
    match readStatusSummary x with
    | some y => some (.summary y)
    | none => none
  | 2, .log _, x =>
    match readLogRec x with
    | some y => some (.record y)
    | none => none
  | _, _, _ => none

/-- A REPLY's fields, none when malformed (R18, R195). -/
def readReplyPayload : List Byte → Option ReplyMsg
  | n :: r :: i :: k :: rest =>
    match readNodeByte n, readReq r i with
    | some who, some q =>
      match readReplyContent q k.toNat rest with
      | some c => some { requester := who, req := q, content := c }
      | none => none
    | _, _ => none
  | _ => none

/-! ## The SNAPSHOT -/

/-- The fields of a SNAPSHOT (R31). -/
structure SnapMsg where
  subject : Node
  fit : Fin 8
  take : BitVec 8
  halt : HaltState
  /-- the roster, node numbers 0-7 in order -/
  roster : Vector (EState × Option RoleSide) 8
  claims : List ClaimRec
  deriving DecidableEq, Repr

/-- The four bytes of a claim record: 16 is added to the set's code if it is GRANTED (R44). -/
def ClaimRec.bytes (r : ClaimRec) : List Byte :=
  [byte r.claimant.val, byte (r.set.code + if r.state = .granted then 16 else 0), byte r.units, byte r.man.code]

/-- The payload of a SNAPSHOT (section 1.2, R31). -/
def SnapMsg.payload (m : SnapMsg) : List Byte :=
  [byte m.subject.val, byte m.fit.val, m.take] ++ m.halt.bytes ++ m.roster.toList.map (fun e => rosterByte e.1 e.2) ++
    [byte m.claims.length] ++ m.claims.flatMap ClaimRec.bytes

/-- A claim record from its four bytes; the out-of-range codes of R44 and R86 give none. -/
def readClaimRec (a b c d : Byte) : Option ClaimRec :=
  match readNodeByte a, Manoeuvre.ofCode d.toNat with
  | some n, some m =>
    if b.toNat < 32 ∧ b.toNat % 16 ≠ 0 ∧ c.toNat ≤ 12 then
      some { claimant := n, set := ResSet.ofCode (b.toNat % 16), units := c.toNat, man := m
             state := if 16 ≤ b.toNat then .granted else .waiting }
    else none
  | _, _ => none

/-- The claim records of a SNAPSHOT, oldest first. -/
def readClaimRecs : List Byte → Option (List ClaimRec)
  | [] => some []
  | a :: b :: c :: d :: rest =>
    match readClaimRec a b c d, readClaimRecs rest with
    | some r, some l => some (r :: l)
    | _, _ => none
  | _ => none

/-- Two sets name a resource in common. -/
def ResSet.meets (a b : ResSet) : Bool := a.pump && b.pump || a.rear && b.rear || a.kerb && b.kerb || a.road && b.road

/-- The units of the GRANTED records (R49). -/
def supplyInUse (l : List ClaimRec) : Nat := ((l.filter fun r => r.state == .granted).map ClaimRec.units).sum

/-- No exclusive resource is named by two GRANTED records (R56, R63). -/
def grantsDisjoint : List ClaimRec → Bool
  | [] => true
  | r :: rest =>
    (r.state == .waiting || rest.all fun q => q.state == .waiting || !r.set.meets q.set) && grantsDisjoint rest

/-- At most one record per claimant (R45, R63). -/
def onePerClaimant : List ClaimRec → Bool
  | [] => true
  | r :: rest => (rest.all fun q => q.claimant != r.claimant) && onePerClaimant rest

/-- The laws a carried claim list keeps (R63). -/
def SnapMsg.lawful (m : SnapMsg) : Bool :=
  onePerClaimant m.claims && (m.claims.all fun r => m.roster[r.claimant].1 == .member) && grantsDisjoint m.claims &&
    decide (supplyInUse m.claims ≤ 12) && (m.claims.isEmpty || m.halt.latch.isNone)

/-- A SNAPSHOT's fields, none when malformed (R18, R31, R44, R63, R150). -/
def readSnapPayload : List Byte → Option SnapMsg
  | sub :: f :: t :: hl :: hc :: e0 :: e1 :: e2 :: e3 :: e4 :: e5 :: e6 :: e7 :: n :: recs =>
    match readNodeByte sub, readNodeByte f, readHalt hl hc, [e0, e1, e2, e3, e4, e5, e6, e7].mapM readRosterByte,
      readClaimRecs recs with
    | some subject, some fit, some halt, some [r0, r1, r2, r3, r4, r5, r6, r7], some claims =>
      let m : SnapMsg :=
        { subject := subject, fit := fit, take := t, halt := halt
          roster := #v[r0, r1, r2, r3, r4, r5, r6, r7], claims := claims }
      if n.toNat ≤ 8 ∧ claims.length = n.toNat ∧ m.lawful = true then some m else none
    | _, _, _, _, _ => none
  | _ => none

end Sys2Proof.Machine
end

