-- ==== Sys2Proof/Machine/Flags.lean ====
section
/-! DEFINITION. The facts a node reads off its state: roster and claim-table readings (R49), own conditions (R77, R78),
interlock terms (R80), the run summary (R78, R100), and the level of every output (R140, R163, R174 to R185). -/

namespace Sys2Proof.Machine

/-! ## Readings of the roster and the claim table -/

/-- The node's own number. -/
def State.own (s : State) : Node := s.straps.node

/-- The roster entry of a node number. -/
def State.entry (s : State) (n : Node) : Entry := s.member.roster[n]

/-- The node numbers in rising order. -/
def allNodes : List Node := [0, 1, 2, 3, 4, 5, 6, 7]

/-- The node numbers whose entry is MEMBER. -/
def State.members (s : State) : List Node := allNodes.filter fun n => (s.entry n).state == .member

/-- The MEMBER entry that holds a role (R80); role limits admit at most one for CAB, LIFT and BEACON. -/
def State.memberOf (s : State) (r : Role) : Option Node :=
  s.members.find? fun n => (s.entry n).role.map RoleSide.role == some r

/-- The node's own claim record, which is the own claim view (R48, R49, assumption 31). -/
def State.ownRecord (s : State) : Option ClaimRec := s.table.claims.find? fun r => r.claimant == s.own

/-- The node's own record is GRANTED. -/
def State.ownGranted (s : State) : Bool :=
  match s.ownRecord with
  | some x => x.state == .granted
  | none => false

/-- The holder of a resource: the claimant of the GRANTED record that names it (R49). -/
def holderOf (l : List ClaimRec) (names : ResSet → Bool) : Option Node :=
  (l.find? fun r => r.state == .granted && names r.set).map ClaimRec.claimant

/-- The halt latch is set. -/
def State.latched (s : State) : Bool := s.table.halt.latch.isSome

/-- A taken frame or a pending one: an own frame of this kind is outstanding (R104, assumption 31). -/
def State.outstanding (s : State) (k : Kind) : Bool :=
  (s.link.tx.any fun e => e.frame.kind == k) || s.link.rx.any fun r => r.kind == k && r.sender == s.own

/-! ## Inputs -/

/-- The filtered value of an input. -/
def State.input (s : State) (i : Fin 16) : Bool := s.lines.inputs[i].active

/-- Whether an input is a stop loop in a role: IN0, and IN9 on LIFT (R67). -/
def isStopLoop (r : Role) (i : Fin 16) : Bool := i == 0 || (i == 9 && r == .lift)

/-- STOP-PRESSED (R68). -/
def State.stopPressed (s : State) : Bool := s.input 0 || (s.straps.role == .lift && s.input 9)

/-- The source of the HALT a held stop queues: PANEL-STOP if IN0 is pressed, PENDANT-STOP otherwise (R152, R159). -/
def State.heldStopSource (s : State) : StopSource := if s.input 0 then .panel else .pendant

/-! ## The run stack and the current step -/

/-- The top entry of the run stack. -/
def Run.top (r : Run) : RunEntry := r.nests.head?.getD r.base

/-- The stack depth (R78). -/
def Run.depth (r : Run) : Nat := r.nests.length + 1

/-- The catalogue step of an entry's current step. -/
def State.stepOf (s : State) (e : RunEntry) : Option StepDef := e.man.step s.straps.side e.idx

/-- The channels (R140). -/
def ChanUnit.get (u : ChanUnit) : Chan → ChanRec
  | .lift => u.lift
  | .tilt => u.tilt
  | .fold => u.fold
  | .ram => u.ram
  | .latch => u.latch

/-- Every channel. -/
def allChans : List Chan := [.lift, .tilt, .fold, .ram, .latch]

/-- A channel is CLOSED, RESTING or FAULTED, which counts as settled (R113, assumption 27). -/
def ChanState.settled : ChanState → Bool
  | .closed | .resting | .faulted => true
  | .opening | .opened | .driving _ | .holding | .relieving => false

/-- Every channel of the node is settled (R113, R120). -/
def State.settled (s : State) : Bool := allChans.all fun c => (s.chans.get c).state.settled

/-- PUMP-DEMAND: the current step is powered and in OPENING, PRIMING, DRIVING or STALLED (R77, R138). -/
def State.pumpDemand (s : State) : Bool :=
  match s.runs.run, s.steps.cur with
  | some r, some c =>
    (match c.state with
      | .opening | .priming | .driving | .stalled => true
      | .arming | .leading | .paused | .closing | .ended => false) &&
    (match s.stepOf r.top with
      | some d => d.powered
      | none => false)
  | _, _ => false

/-- The run summary (R78, R100). -/
def State.summary (s : State) : Summary :=
  match s.runs.run with
  | none => { depth := 0, step := none, man := none, idx := 0 }
  | some r =>
    match s.steps.cur with
    | none => { depth := r.depth, step := none, man := some r.top.man, idx := 0 }
    | some c => { depth := r.depth, step := some c.state, man := some r.top.man, idx := r.top.idx }

/-- The run state (R100). -/
def State.runState (s : State) : RunState :=
  match s.runs.run with
  | none => .idle
  | some r =>
    match r.phase with
    | .claiming => .claiming
    | .running => .running
    | .paused => .paused
    | .ending => .ending

/-! ## Own conditions -/

/-- The beacon groups by name. -/
def BeaconUnit.get (u : BeaconUnit) : Group → GroupRec
  | .rear => u.rear
  | .kerb => u.kerb
  | .road => u.road
  | .flags => u.flags

/-- Every group, in the order of the lamp test (R180). -/
def allGroups : List Group := [.rear, .kerb, .road, .flags]

/-- X-LIT of a group (R174, R178). -/
def State.groupLit (s : State) (g : Group) : Bool :=
  s.straps.role == .beacon && (s.beacon.get g).state == .lit && !s.beacon.hazard

/-- X-FAILED of a group (R174, R178). -/
def State.groupFailed (s : State) (g : Group) : Bool :=
  s.straps.role == .beacon && (s.beacon.get g).state == .failed

/-- FAULT (R77). -/
def State.fault (s : State) : Bool :=
  (allChans.any fun c => (s.chans.get c).state == .faulted) || s.lines.outLatch.toList.any id ||
    (allGroups.any s.groupFailed) || (s.straps.role == .lift && s.pump.faulty)

/-- PRESSURE-UP on the LIFT node (R169). -/
def State.pressureUp (s : State) : Bool := s.straps.role == .lift && s.input 15 && !s.pump.faulty

/-- The value of an own condition (R77). A condition of another role is false. -/
def State.cond (s : State) (c : Cond) : Bool :=
  let r := s.straps.role
  match c with
  | .runActive => s.runs.run.isSome
  | .fault => s.fault
  | .stopPressed => s.stopPressed
  | .brakeSet => r == .cab && s.input 2
  | .standstill => r == .cab && s.lines.standstill
  | .bodyOn => r == .cab && s.input 3
  | .folded => r == .lift && s.input 10
  | .unfolded => r == .lift && s.input 11
  | .atFloor => r == .lift && s.input 12
  | .atBed => r == .lift && s.input 13
  | .level => r == .lift && s.input 14
  | .pressureUp => s.pressureUp
  | .pumpRunning => r == .lift && s.pump.on
  | .pumpResting => r == .lift && s.pump.rest.isSome
  | .pumpDemand => s.pumpDemand
  | .latched => r == .hatch && s.input 6
  | .openFull => r == .hatch && s.input 7
  | .edgeClear => r == .hatch && !s.input 8
  | .rearLit => s.groupLit .rear
  | .kerbLit => s.groupLit .kerb
  | .roadLit => s.groupLit .road
  | .flagsLit => s.groupLit .flags
  | .rearFailed => s.groupFailed .rear
  | .kerbFailed => s.groupFailed .kerb
  | .roadFailed => s.groupFailed .road
  | .flagsFailed => s.groupFailed .flags
  | .hazard => r == .beacon && s.beacon.hazard

/-- The conditions of a role, from position 3 on (R78). -/
def roleConds : Role → List Cond
  | .cab => [.brakeSet, .standstill, .bodyOn]
  | .lift =>
    [.folded, .unfolded, .atFloor, .atBed, .level, .pressureUp, .pumpRunning, .pumpResting, .pumpDemand]
  | .hatch => [.latched, .openFull, .edgeClear, .pumpDemand]
  | .beacon =>
    [.rearLit, .kerbLit, .roadLit, .flagsLit, .rearFailed, .kerbFailed, .roadFailed, .flagsFailed, .hazard]

/-- The conditions of a role by position (R78); a field is read once a role is known, and with none nothing is read. -/
def condsOf : Option Role → List Cond
  | some x => [.runActive, .fault, .stopPressed] ++ roleConds x
  | none => []

/-- Position `i` of a conditions field holds `l[i]` (R78). -/
def condWordOf (l : List Bool) : BitVec 16 :=
  BitVec.ofNat 16 (l.foldr (fun b acc => b.toNat + 2 * acc) 0)

/-- The node's own conditions field (R78). -/
def State.condWord (s : State) : BitVec 16 := condWordOf ((condsOf (some s.straps.role)).map s.cond)

/-- A condition read from a conditions field by the role of the entry (R78). -/
def condIn (r : Option Role) (w : BitVec 16) (c : Cond) : Bool :=
  if (condsOf r).idxOf c < (condsOf r).length then w.getLsbD ((condsOf r).idxOf c) else false

/-- The conditions a field shows true, by position (R78, R194, assumption 34). -/
def trueConds (r : Option Role) (w : BitVec 16) : List Cond := (condsOf r).filter (condIn r w)

/-- A condition an entry's last conditions show; false when they are absent. -/
def Entry.shows (e : Entry) (c : Cond) : Bool :=
  match e.last with
  | some x => condIn (e.role.map RoleSide.role) x.conds c
  | none => false

/-! ## Interlock terms -/

/-- A term that names a role, read on another node: its MEMBER entry must be HEARD and FRESH and show the value (R80). -/
def State.peerTerm (s : State) (r : Role) (c : Cond) (v : Bool) : Bool :=
  match s.memberOf r with
  | none => false
  | some n => (s.entry n).heard && (s.entry n).fresh && (s.entry n).shows c == v

/-- The value of a term (R80). -/
def State.term (s : State) : Term → Bool
  | .own c v => s.cond c == v
  | .either c d => s.cond c || s.cond d
  | .peer r c v => if s.straps.role = r then s.cond c == v else s.peerTerm r c v

/-- The interlock of a step holds (R89). -/
def State.interlock (s : State) (d : StepDef) : Bool := d.interlock.all s.term

/-- The way is clear (R126). -/
def State.clearWay (s : State) (d : StepDef) : Bool := s.interlock d && !s.stopPressed

/-- Pressure is up as a step reads it: the own condition on LIFT, the LIFT node's from the roster elsewhere (R131). -/
def State.pressure (s : State) : Bool := s.term (.peer .lift .pressureUp true)

/-- An end condition holds (R90). -/
def State.endCond (s : State) (d : StepDef) (driveTime : Nat) : EndCond → Bool
  | .cond c v => s.cond c == v
  | .height h =>
    match s.lines.height with
    | none => false
    | some x =>
      let mark := match h with | .floor => 0 | .bed => s.fitRow.bed
      if d.dir = .down then x ≤ mark else mark ≤ x
  | .driveTime ms => ms ≤ driveTime

/-- The end of a step holds (R90). -/
def State.endHolds (s : State) (d : StepDef) (driveTime : Nat) : Bool := d.ends.any (s.endCond d driveTime)

/-! ## Zones and the fold report -/

/-- A zone is named by a GRANTED record (R175, R183). -/
def State.zoneHeld (s : State) (names : ResSet → Bool) : Bool := (holderOf s.table.claims names).isSome

/-- The MEMBER LIFT entry is FRESH and shows FOLDED false (R175, R183). -/
def State.reportedUnfolded (s : State) : Bool :=
  match s.memberOf .lift with
  | none => false
  | some n => (s.entry n).fresh && !(s.entry n).shows .folded

/-- The demand of a group (R175). -/
def State.demand (s : State) (g : Group) : Bool :=
  s.member.mstate == .member &&
    match g with
    | .rear => s.zoneHeld ResSet.rear
    | .kerb => s.zoneHeld ResSet.kerb
    | .road => s.zoneHeld ResSet.road
    | .flags => (s.memberOf .lift).isNone || s.reportedUnfolded

/-- Hazard's causes (R179). -/
def State.hazardCause (s : State) : Bool :=
  s.straps.role == .beacon &&
    (s.latched || match s.member.mstate with
      | .isolated | .barred | .unfit => true
      | .start | .listen | .joinWait | .member => false)

/-! ## The pump -/

/-- The holder of PUMP demands the pump (R164). -/
def State.holderDemands (s : State) : Bool :=
  match holderOf s.table.claims ResSet.pump with
  | none => false
  | some n =>
    if n = s.own then s.pumpDemand
    else (s.entry n).state == .member && (s.entry n).heard && (s.entry n).fresh && (s.entry n).shows .pumpDemand

/-- The conditions under which the pump output is on (R163). -/
def State.pumpWanted (s : State) : Bool :=
  s.straps.role == .lift && s.member.mstate == .member && !s.latched && s.holderDemands && s.pump.rest.isNone &&
    !s.lines.outLatch[(9 : Fin 12)]

/-! ## Cab indicators and NODE-OK -/

/-- A MEMBER entry shows a condition; the node's own entry counts with its own condition (R181, R182). It counts where
it is MEMBER: a MEMBER whose own entry its own late JOIN has set JOINING (R29) leaves its own condition out (DESIGN
CHOICE, assumption 42). -/
def State.memberShows (s : State) (c : Cond) : Bool :=
  s.members.any fun n => if n = s.own then s.cond c else (s.entry n).shows c

/-- BODY-ACTIVE (R181, R184). -/
def State.bodyActive (s : State) : Bool := s.member.mstate == .member && s.memberShows .runActive

/-- The FAULT lamp (R182, R184). -/
def State.faultLamp (s : State) : Bool :=
  if s.member.mstate != .member then true
  else if s.latched then s.cab.on
  else s.memberShows .fault || allNodes.any fun n => (s.entry n).state == .absent || (s.entry n).state == .barred

/-- The BUZZER (R183, R184). -/
def State.buzzer (s : State) : Bool :=
  s.member.mstate == .member && !s.lines.standstill &&
    (s.zoneHeld ResSet.rear || s.zoneHeld ResSet.kerb || s.zoneHeld ResSet.road || s.reportedUnfolded)

/-- The half-period of the NODE-OK flash of a membership state; none for a steady level (R185). -/
def okHalfPeriod : MState → Timer
  | .start | .member => none
  | .listen | .joinWait | .isolated => some slowFlashMs
  | .barred | .unfit => some fastFlashMs

/-- NODE-OK (R185). -/
def State.nodeOkOn (s : State) : Bool :=
  match s.member.mstate with
  | .start => false
  | .member => true
  | .listen | .joinWait | .isolated | .barred | .unfit => s.nodeOk.on

/-! ## Outputs -/

/-- The level of an output driver. -/
inductive Drive
  | off
  | on
  | pullIn
  | hold
  deriving DecidableEq, Repr

/-- The level of an on-or-off output. -/
def Drive.ofBool (b : Bool) : Drive := if b then .on else .off

/-- The level of a channel's output at an offset from its first: the selector or the solenoid at 0, the directions of a
CIRCUIT at 1 and 2 (R140). -/
def ChanState.output (offset : Nat) : ChanState → Drive
  | .opening => if offset = 0 then .pullIn else .off
  | .opened | .holding => if offset = 0 then .hold else .off
  | .driving d => if offset = 0 then .hold else if d.output = offset then .on else .off
  | .closed | .relieving | .resting | .faulted => .off

/-- The outputs of a group are on: by the hazard flash while it is in force, by its test slot, by its state (R174, R179,
R180). In its slot a group that is FAILED already is driven as well (DESIGN CHOICE, assumption 29). -/
def State.groupDriven (s : State) (g : Group) : Bool :=
  if s.beacon.hazard then s.beacon.flash.on
  else if s.beacon.test = .slot g then true
  else
    match (s.beacon.get g).state with
    | .warming | .lit | .tail => true
    | .dark | .failed => false

/-- The level of every output (R70). -/
def State.output (s : State) (o : Fin 12) : Drive :=
  match s.straps.role.chanOfOutput o, s.straps.role.groupOfOutput o with
  | some c, _ => (s.chans.get c).state.output (o.val - chanFirstOutput c)
  | none, some g => Drive.ofBool (s.groupDriven g)
  | none, none =>
    if o = 11 then Drive.ofBool s.nodeOkOn
    else
      match s.straps.role with
      | .cab =>
        if o = 0 then Drive.ofBool s.bodyActive
        else if o = 1 then Drive.ofBool s.faultLamp
        else if o = 2 then Drive.ofBool s.buzzer
        else .off
      | .lift => if o = 9 then Drive.ofBool s.pump.on else .off
      | .hatch | .beacon => .off

/-- A driver senses over-current at any time and an open load while it drives (R70). -/
def State.senses (s : State) (o : Fin 12) (k : DriverFault) : Bool :=
  match k with
  | .overCurrent => true
  | .openLoad => s.output o != .off

end Sys2Proof.Machine
end

