-- ==== Sys2Proof/Machine/Ops.lean ====
section
/-! DEFINITION. The operations the meanings share: log ring, transmit list, channel commands, roster entries, grant
evaluation and admission, posture change detection. -/

namespace Sys2Proof.Machine

/-! ## The log ring -/

/-- The position the next record takes: the next empty slot, or the slot of the oldest closed record (R190). -/
def nextSlot (slots : List LogSlot) : Nat :=
  if slots.length < 32 then slots.length
  else
    match slots.find? fun x => x.data.outcome != .inProgress with
    | some x => x.slot
    | none => 0

/-- The records after a new one is written at a position (R190): added as the youngest, in place of the one there. -/
def putRecord (slots : List LogSlot) (wpos : Nat) (r : LogRec) : List LogSlot :=
  (slots.filter fun x => x.slot != wpos) ++ [{ slot := wpos, data := r }]

/-- A record is written (R190). -/
def State.writeRec (s : State) (r : LogRec) : State :=
  { s with log := { s.log with
      slots := putRecord s.log.slots s.log.wpos r, wpos := nextSlot (putRecord s.log.slots s.log.wpos r) } }

/-- Every record IN-PROGRESS, of which there is at most one (R189), is changed by `f`. -/
def State.changeOpen (s : State) (f : LogRec → LogRec) : State :=
  { s with log := { s.log with
      slots := s.log.slots.map fun x => if x.data.outcome = .inProgress then { x with data := f x.data } else x } }

/-- The height a record of a step takes at its end: the LIFT channel's alone, absent while UNKNOWN (R189). -/
def State.heightFor (s : State) (m : Option Manoeuvre) (idx : Option Nat) : Option Nat :=
  match m, idx with
  | some x, some i =>
    match x.step s.straps.side i with
    | some d => if d.chan = .lift then s.lines.height else none
    | none => none
  | _, _ => none

/-- The record of the current step is closed with an outcome and a cause (R189). -/
def State.closeRec (s : State) (o : RunOutcome) (c : Option Cause) : State :=
  s.changeOpen fun r =>
    { r with outcome := o, cause := c, endTag := some s.log.tag, height := s.heightFor r.man r.idx }

/-- A REQUEST record (R188). -/
def State.writeRequest (s : State) (m : Option Manoeuvre) (o : RunOutcome) (c : Cause) : State :=
  s.writeRec
    { kind := .request, run := s.runs.counter, depth := 0, man := m, idx := none, outcome := o, cause := some c
      retries := 0, startTag := s.log.tag, endTag := some s.log.tag, height := none }

/-! ## The transmit list -/

/-- The states in which frames are queued; in the others a queued frame is discarded (R19). -/
def State.mayQueue (s : State) : Bool := s.member.mstate == .joinWait || s.member.mstate == .member

/-- An entry is the pending frame of a kind and subject (R14). -/
def TxEntry.isFor (e : TxEntry) (k : Kind) (subj : Option Node) : Bool := e.frame.kind == k && e.frame.subject == subj

/-- The list after a frame is queued: a pending frame of the kind and subject keeps its place and its attempt count and
takes the newer content, and a withdrawal waiting for it is overtaken (R14, assumption 7). -/
def queueIn (tx : List TxEntry) (f : TxFrame) : List TxEntry :=
  if (tx.any fun e => e.isFor f.kind f.subject) then
    tx.map fun e => if e.isFor f.kind f.subject then { e with frame := f, withdrawn := false } else e
  else tx ++ [{ frame := f, attempts := 0, withdrawn := false }]

/-- A frame is queued (R14, R19). -/
def State.queue (s : State) (f : TxFrame) : State :=
  if s.mayQueue then { s with link := { s.link with tx := queueIn s.link.tx f } } else s

/-- An attempt of the pending frame of this kind and subject is on the line. -/
def LineUse.isSending (l : LineUse) (k : Kind) (subj : Option Node) : Bool :=
  match l with
  | .sending k' subj' _ => k' == k && subj' == subj
  | .quiet | .broken => false

/-- The list after a pending frame is withdrawn: it leaves at once, or, with an attempt on the line, is marked to leave
when that attempt ends untaken (R16, R112, R151, assumption 7). -/
def withdrawIn (line : LineUse) (tx : List TxEntry) (k : Kind) (subj : Option Node) : List TxEntry :=
  if line.isSending k subj then tx.map fun e => (if e.isFor k subj then { e with withdrawn := true } else e)
  else tx.filter fun e => !e.isFor k subj

/-- A pending frame is withdrawn. -/
def State.withdraw (s : State) (k : Kind) (subj : Option Node) : State :=
  { s with link := { s.link with tx := withdrawIn s.link.line s.link.tx k subj } }

/-- A pending frame leaves the transmit list if no attempt of it is on the line; one on the line runs to its end, and
stays pending where that end is untaken (R35, R196; DESIGN CHOICE, assumption 36). -/
def State.dropPending (s : State) (k : Kind) (subj : Option Node) : State :=
  if s.link.line.isSending k subj then s else s.withdraw k subj

/-- YIELD is queued, which withdraws a pending CLAIM (R16). -/
def State.queueYield (s : State) : State := (s.withdraw .claim none).queue .yield

/-! ## Channel commands -/

/-- The commands a channel takes (R142). -/
inductive ChanCmd
  | openCmd
  | drive (d : Dir)
  | hold
  | relieve
  deriving DecidableEq, Repr

/-- A channel in a timed or settled state with its settle timer (R141). -/
def ChanRec.enter (st : ChanState) (t : Timer) : ChanRec := { state := st, held := false, settle := t }

/-- A channel takes a command against its state; none when it refuses it (R142). -/
def ChanRec.command (c : ChanRec) (cmd : ChanCmd) : Option ChanRec :=
  match cmd, c.state with
  | .openCmd, .closed => some (ChanRec.enter .opening (some openingMs))
  | .openCmd, .resting => some { c with held := true }
  | .openCmd, _ => none
  | .drive d, .opened => some (ChanRec.enter (.driving d) none)
  | .drive d, .holding => some (ChanRec.enter (.driving d) none)
  | .drive d, .driving d' => if d = d' then some c else none
  | .drive _, _ => none
  | .hold, .driving _ => some (ChanRec.enter .holding none)
  | .hold, .opened => some c
  | .hold, .holding => some c
  | .hold, _ => none
  | .relieve, .opening => some (ChanRec.enter .relieving (some relievingMs))
  | .relieve, .opened => some (ChanRec.enter .relieving (some relievingMs))
  | .relieve, .driving _ => some (ChanRec.enter .relieving (some relievingMs))
  | .relieve, .holding => some (ChanRec.enter .relieving (some relievingMs))
  | .relieve, .resting => some { c with held := false }
  | .relieve, .closed => some c
  | .relieve, .relieving => some c
  | .relieve, .faulted => some c

/-- A channel's record is replaced. -/
def ChanUnit.set (u : ChanUnit) (c : Chan) (x : ChanRec) : ChanUnit :=
  match c with
  | .lift => { u with lift := x }
  | .tilt => { u with tilt := x }
  | .fold => { u with fold := x }
  | .ram => { u with ram := x }
  | .latch => { u with latch := x }

/-- Every channel is changed by a function. -/
def ChanUnit.each (u : ChanUnit) (f : ChanRec → ChanRec) : ChanUnit :=
  { lift := f u.lift, tilt := f u.tilt, fold := f u.fold, ram := f u.ram, latch := f u.latch }

/-- A channel after a command, unchanged where it refuses (R142). -/
def ChanRec.after (c : ChanRec) (cmd : ChanCmd) : ChanRec := (c.command cmd).getD c

/-- A channel is commanded. -/
def State.command (s : State) (c : Chan) (cmd : ChanCmd) : State :=
  { s with chans := s.chans.set c ((s.chans.get c).after cmd) }

/-- RELIEVE to every channel of the node. -/
def State.relieveAll (s : State) : State := { s with chans := s.chans.each fun c => c.after .relieve }

/-- HOLD to every channel that is DRIVING (R115, R118). -/
def State.holdDriving (s : State) : State :=
  { s with chans := s.chans.each fun c =>
      match c.state with
      | .driving _ => c.after .hold
      | .closed | .opening | .opened | .holding | .relieving | .resting | .faulted => c }

/-- The settle timer of a channel runs out (R141). A RESTING channel with a held OPEN goes through CLOSED to OPENING in one
event, and nothing reads the CLOSED between, the fence of another step included (DESIGN CHOICE, assumption 50). -/
def ChanRec.settled (c : ChanRec) : ChanRec :=
  match c.settle, c.state with
  | some _, .opening => ChanRec.enter .opened none
  | some _, .relieving => ChanRec.enter .resting (some restingMs)
  | some _, .resting => if c.held then ChanRec.enter .opening (some openingMs) else ChanRec.enter .closed none
  | _, _ => c

/-! ## Roster entries -/

/-- A roster entry is replaced. -/
def State.setEntry (s : State) (n : Node) (e : Entry) : State :=
  { s with member := { s.member with roster := s.member.roster.set n e } }

/-- Every roster entry is changed by a function of its node number. -/
def State.mapRoster (s : State) (f : Node → Entry → Entry) : State :=
  { s with member := { s.member with roster := Vector.ofFn fun i : Fin 8 => f i s.member.roster[i] } }

/-- The silence timer of an entry that is MEMBER; the node's own entry has none (R34). -/
def State.silenceOf (s : State) (n : Node) : Timer := if n = s.own then none else some silenceMs

/-- An entry becomes MEMBER in this roster: AGREE, STALE, its silence timer starts (R34, R37, R79). -/
def State.toMember (s : State) (n : Node) (e : Entry) : Entry :=
  { e with state := .member, agree := true, fresh := false, silence := s.silenceOf n }

/-- An entry enters a state other than MEMBER: its silence timer stops (R34). -/
def Entry.leave (e : Entry) (st : EState) (role : Option RoleSide) : Entry :=
  { e with state := st, role := role, silence := none }

/-- A node number enters or leaves the snapshot owed set (R30). -/
def State.setOwed (s : State) (n : Node) (b : Bool) : State :=
  { s with member := { s.member with owed := s.member.owed.set n b } }

/-! ## The claim table -/

/-- A claim list is replaced. -/
def State.setClaims (s : State) (l : List ClaimRec) : State := { s with table := { s.table with claims := l } }

/-- The conditions under which a WAITING record becomes GRANTED at its visit (R55): `older` stands before it in the
walk, `younger` behind it. -/
def grantable (older younger : List ClaimRec) (r : ClaimRec) : Bool :=
  ((older ++ younger).all fun q => q.state == .waiting || !q.set.meets r.set) &&
    decide (r.units + supplyInUse (older ++ younger) ≤ 12) &&
    (older.all fun q => q.state == .granted || !q.set.meets r.set) &&
    (r.units == 0 || older.all fun q => q.state == .granted || q.units == 0)

/-- The walk of grant evaluation, oldest first (R55). -/
def grantWalk : List ClaimRec → List ClaimRec → List ClaimRec
  | older, [] => older
  | older, r :: rest =>
    if r.state = .waiting ∧ grantable older rest r = true then grantWalk (older ++ [{ r with state := .granted }]) rest
    else grantWalk (older ++ [r]) rest

/-- Grant evaluation (R54, R55). -/
def evalGrants (l : List ClaimRec) : List ClaimRec := grantWalk [] l

/-- The list without the record of a claimant. -/
def removeClaim (l : List ClaimRec) (n : Node) : List ClaimRec := l.filter fun r => r.claimant != n

/-- The list holds a record of a claimant. -/
def hasClaim (l : List ClaimRec) (n : Node) : Bool := l.any fun r => r.claimant == n

/-- The record of a claimant is removed and, if there was one, grant evaluation runs (R58, R59, R60). -/
def State.removeRecord (s : State) (n : Node) : State :=
  if hasClaim s.table.claims n then s.setClaims (evalGrants (removeClaim s.table.claims n)) else s

/-- The checks of admission, in order; none admits (R50). -/
def State.admission (s : State) (c : Node) (m : ClaimMsg) : Option Cause :=
  if s.latched then some .latched
  else if (s.entry c).state ≠ .member then some .notMember
  else if hasClaim s.table.claims c then some .hasRecord
  else if m.set = 0 ∨ 15 < m.set ∨ 12 < m.units then some .badClaim
  else none

/-- The list after an admitted CLAIM (R50). -/
def State.admitted (s : State) (c : Node) (m : ClaimMsg) : List ClaimRec :=
  evalGrants
    (s.table.claims ++
      [{ claimant := c, set := ResSet.ofCode m.set, units := m.units, man := m.man, state := .waiting }])

/-- The halt state after a HALT from a node (R153). -/
def HaltState.raised (h : HaltState) (n : Node) : HaltState :=
  match h.latch with
  | none => { latch := some n, count := 1 }
  | some o => { latch := some o, count := min 15 (h.count + 1) }

/-! ## Postures -/

/-- What the posture unit watches: own conditions, run summary, run state, halt-latched indication (R82, R100). -/
def State.posted (s : State) : BitVec 16 × Summary × RunState × Bool := (s.condWord, s.summary, s.runState, s.latched)

/-- The change mark is set (R82). -/
def State.markChange (s : State) : State := { s with post := { s.post with changed := true } }

/-- A change of what is published, from an earlier state to a later one, queues a POSTURE, or sets the change mark while
the spacing timer runs. A change after an own POSTURE attempt has started sets the mark again, so that a later POSTURE
reports it (R82, R173, assumption 22). -/
def State.noteChange (old s : State) : State :=
  if s.member.mstate = .member ∧ old.posted ≠ s.posted then
    match s.post.spacing with
    | some _ => s.markChange
    | none => if s.link.line.isSending .posture none then (s.queue .posture).markChange else s.queue .posture
  else s

end Sys2Proof.Machine
end

