-- ==== Sys2Proof/Machine/Runs.lean ====
section
/-! DEFINITION. The run engine (chapter 6) and the step engine (chapter 7): how requests, verdicts and step outcomes
change the run stack, and the moves the step engine makes of itself once its state allows them. -/

namespace Sys2Proof.Machine

/-! ## Small updates -/

/-- The step engine as after reset: no current step, every timer stopped, both counts 0 (R124). -/
def StepUnit.none : StepUnit :=
  { cur := Option.none, retries := 0, driveTime := 0, lead := Option.none, recovery := Option.none
    priming := Option.none, pause := Option.none }

/-- The step engine with a current step and every timer stopped; its counts stand. -/
def StepUnit.only (u : StepUnit) (c : CurStep) : StepUnit :=
  { StepUnit.none with cur := some c, retries := u.retries, driveTime := u.driveTime }

/-- The run stack is replaced. -/
def State.setRun (s : State) (r : Run) : State := { s with runs := { s.runs with run := some r } }

/-- The step engine is replaced. -/
def State.setSteps (s : State) (u : StepUnit) : State := { s with steps := u }

/-- The top entry of the stack is replaced. -/
def Run.setTop (r : Run) (e : RunEntry) : Run :=
  match r.nests with
  | [] => { r with base := e }
  | _ :: rest => { r with nests := e :: rest }

/-- The record of the top entry's current step is begun (R188). -/
def State.openRec (s : State) (retries : Nat) : State :=
  match s.runs.run with
  | none => s
  | some r =>
    s.writeRec
      { kind := .step, run := r.top.num, depth := r.nests.length, man := some r.top.man, idx := some r.top.idx
        outcome := .inProgress, cause := none, retries := retries, startTag := s.log.tag, endTag := none, height := none }

/-- A step enters ARMING (R125): every timer stops, drive time is 0; `testSkip` and `newRec` are the table's columns. -/
def State.arm (s : State) (retries : Nat) (testSkip newRec : Bool) : State :=
  let s1 :=
    s.setSteps
      { StepUnit.none with
        cur := some
          { state := .arming, gate := .check, testSkip := testSkip, limit := none, noRecord := false, result := none }
        retries := retries }
  if newRec then s1.openRec retries else s1

/-- The CLAIM-PHASE record of a base leaving the stack (R101, R188); it carries a cause for FAILED and REFUSED. -/
def State.writePhaseEnd (s : State) (r : Run) (o : RunOutcome) (c : Option Cause) : State :=
  s.writeRec
    { kind := .claimPhase, run := r.base.num, depth := 0, man := some r.base.man, idx := none, outcome := o
      cause := if o = .failed ∨ o = .refused then c else none
      retries := 0, startTag := r.runTag.getD r.claimTag, endTag := some s.log.tag, height := none }

/-- The stack is emptied and the run engine is IDLE (R112, R113). -/
def State.emptyStack (s : State) : State :=
  { s with runs := { s.runs with run := none, claimWait := none, fn := none }, steps := StepUnit.none }

/-- The CLAIM of a manoeuvre is queued (R87). -/
def State.queueClaim (s : State) (m : Manoeuvre) : State :=
  match m.claim s.straps.side with
  | some (set, units) => s.queue (.claim set units m)
  | none => s

/-! ## Ending -/

/-- How a base in ENDING stands toward its claim (R98): HELD while its record is GRANTED, QUEUED while its CLAIM is
outstanding or its record WAITING, NONE otherwise (DEDUCED, assumption 37). -/
def State.endingMode (s : State) : ClaimMode → ClaimMode
  | .queued => if s.ownGranted then .held else if s.ownRecord.isSome || s.outstanding .claim then .queued else .none
  | .held => if s.ownGranted then .held else .none
  | .deferred | .none => .none

/-- The run enters ENDING (R113): the outcome is fixed, the step in progress ends with it, every channel is relieved. The
records still IN-PROGRESS take the outcome with no cause: the run's cause stands in its CLAIM-PHASE record alone (DESIGN
CHOICE, assumption 40). -/
def State.enterEnding (s : State) (o : RunOutcome) (c : Option Cause) : State :=
  match s.runs.run with
  | none => s
  | some r =>
    let s1 := (s.closeRec o none).relieveAll
    { s1 with
      runs := { s1.runs with
        run := some { r with
          phase := .ending, ending := some (o, c), owesYield := false
          mode := if o = .refused then .none else s.endingMode r.mode }
        claimWait := none }
      steps := StepUnit.none }

/-- The stack leaves ENDING once every channel is settled (R113): YIELD unless one is outstanding, the CLAIM-PHASE
record, IDLE. -/
def State.leaveEnding (s : State) (r : Run) : State :=
  let s1 := if s.outstanding .yield then s else s.queueYield
  let out := r.ending.getD (.complete, none)
  (s1.writePhaseEnd r out.1 out.2).emptyStack

/-- The whole stack ends at once with HALTED, ISOLATED or RESYNC (R112); a stack in ENDING keeps its outcome. A pending
CLAIM is withdrawn and every channel is relieved whether or not a run stood. -/
def State.endStack (s : State) (o : RunOutcome) : State :=
  let s1 :=
    match s.runs.run with
    | none => s.emptyStack
    | some r =>
      let out := r.ending.getD (o, none)
      (((s.closeRec out.1 none).writePhaseEnd r out.1 out.2).emptyStack)
  (s1.withdraw .claim none).relieveAll

/-! ## Requests -/

/-- A base entry as it is made (R98, R103). -/
def RunEntry.base (m : Manoeuvre) (num : BitVec 16) (side : Side) (idx : Nat) : RunEntry :=
  { man := m, num := num, origin := .operator, idx := idx, left := (m.steps side).length, back := none, resume := none
    kept := 0, nest := none }

/-- A run starts (R103). -/
def State.startRun (s : State) (m : Manoeuvre) (f : Option LiftFn) : State :=
  let busy := s.outstanding .claim || s.outstanding .yield
  let num := s.runs.counter + 1
  let s1 : State :=
    { s with runs :=
      { run := some
          { base := RunEntry.base m num s.straps.side 0, nests := [], phase := .claiming, nestCount := 0
            leadServed := false, mode := if busy then .deferred else .queued, claimTag := s.log.tag, runTag := none
            ending := none, owesYield := false }
        counter := num, claimWait := some claimWaitMs, fn := f } }
  if busy then s1 else s1.queueClaim m

/-- Whether a switch keeps the claim: the same resource set and no more units (R87, R118). -/
def keepsClaim (side : Side) (old new : Manoeuvre) : Bool :=
  match old.claim side, new.claim side with
  | some (a, u), some (b, v) => a == b && decide (v ≤ u)
  | _, _ => false

/-- RELIEVE to every channel that no step of a manoeuvre names (R119). -/
def State.relieveUnnamed (s : State) (m : Manoeuvre) : State :=
  let named := (m.steps s.straps.side).map StepDef.chan
  allChans.foldl (fun t c => if named.contains c then t else t.command c .relieve) s

/-- The run is switched to another manoeuvre (R118 to R120, assumption 13). -/
def State.switchTo (s : State) (m : Manoeuvre) (f : Option LiftFn) : State :=
  match s.runs.run with
  | none => s
  | some r =>
    let s1 := ((s.closeRec .switched none).writePhaseEnd r .switched none).holdDriving
    let num := s1.runs.counter + 1
    let fresh : Run :=
      { base := RunEntry.base m num s1.straps.side 0, nests := [], phase := .claiming, nestCount := 0
        leadServed := false, mode := r.mode, claimTag := s1.log.tag, runTag := none, ending := none
        owesYield := r.owesYield }
    if keepsClaim s1.straps.side r.base.man m then
      if r.mode = .held then
        let s2 : State :=
          { s1 with runs :=
            { run := some { fresh with
                base := RunEntry.base m num s1.straps.side 1, phase := .running, leadServed := r.leadServed
                runTag := some s1.log.tag, owesYield := false }
              counter := num, claimWait := none, fn := f } }
        (s2.relieveUnnamed m).arm 0 true true
      else
        { s1 with
          runs := { run := some fresh, counter := num, claimWait := some claimWaitMs, fn := f }
          steps := StepUnit.none }
    else
      { s1.relieveAll with
        runs :=
          { run := some { fresh with mode := .deferred, owesYield := true }
            counter := num, claimWait := some claimWaitMs, fn := f }
        steps := StepUnit.none }

/-- A request that finds the run engine IDLE starts a run or is refused (R102). -/
def State.requestIdle (s : State) (m : Manoeuvre) (f : Option LiftFn) : State :=
  if s.member.mstate ≠ .member then s.writeRequest (some m) .refused .notMember
  else if s.latched then s.writeRequest (some m) .refused .latched
  else s.startRun m f

/-- A HATCH request for OPEN or CLOSE reaches the run engine (R102, R117). -/
def State.touchRequest (s : State) (m : Manoeuvre) : State :=
  match s.runs.run with
  | none => s.requestIdle m none
  | some r =>
    match r.phase with
    | .ending => s.writeRequest (some m) .refused .busy
    | .claiming | .running => if r.base.man = m then s.enterEnding .stopped none else s.switchTo m none
    | .paused => s

/-- The paused step restarts on its record (R116, R125). A step paused in CLOSING after NESTED-FAILED has no open record,
and its restart begins a new one (DESIGN CHOICE, assumption 14). -/
def State.resumeRun (s : State) (r : Run) : State :=
  match s.steps.cur with
  | none => s
  | some c => (s.setRun { r with phase := .running }).arm s.steps.retries true c.noRecord

/-- HELD-BEGIN reaches the run engine (R102, R116). -/
def State.heldBegin (s : State) (f : LiftFn) : State :=
  match s.runs.run with
  | none => s.requestIdle f.manoeuvre (some f)
  | some r =>
    match r.phase with
    | .ending => s.writeRequest (some f.manoeuvre) .refused .busy
    | .paused => if s.runs.fn = some f then s.resumeRun r else s.switchTo f.manoeuvre (some f)
    | .claiming | .running => s

/-- The run is paused (R115, R137). -/
def State.pauseRun (s : State) (r : Run) : State :=
  match s.steps.cur with
  | none => s
  | some c =>
    (s.holdDriving.setRun { r with phase := .paused }).setSteps
      { s.steps.only { c with state := .paused } with pause := some pauseMs }

/-- HELD-END reaches the run engine; its two reasons act alike (R102, R106, R115). -/
def State.heldEnd (s : State) (f : LiftFn) : State :=
  match s.runs.run with
  | none => s
  | some r =>
    if s.runs.fn = some f then
      match r.phase with
      | .claiming => s.enterEnding .stopped none
      | .running => s.pauseRun r
      | .paused | .ending => s
    else s

/-! ## Verdicts -/

/-- The verdicts of the claim table unit (R64); REMOVED with reason HALT adds nothing to the HALT itself (R105). -/
inductive Verdict
  | appended
  | granted
  | refused (c : Cause)
  | removedByYield
  | removedByJoin
  deriving DecidableEq, Repr

/-- The grant starts the run (R105). -/
def State.grantRun (s : State) (r : Run) : State :=
  let s1 :=
    s.writeRec
      { kind := .claimPhase, run := r.base.num, depth := 0, man := some r.base.man, idx := none, outcome := .done
        cause := none, retries := 0, startTag := r.claimTag, endTag := some s.log.tag, height := none }
  let s2 : State :=
    { s1 with runs := { s1.runs with
        run := some { r with
          mode := .held, phase := .running, runTag := some s1.log.tag, base := { r.base with idx := 1 } }
        claimWait := none } }
  s2.arm 0 true true

/-- A record that no run uses is removed by a YIELD of the run engine's own, unless one is outstanding (R107). -/
def State.yieldStray (s : State) : State := if s.outstanding .yield then s else s.queueYield

/-- The run engine takes a verdict (R105, R107, assumption 28). -/
def State.takeVerdict (s : State) (v : Verdict) : State :=
  match s.runs.run with
  | none =>
    match v with
    | .appended | .granted => s.yieldStray
    | .refused _ | .removedByYield | .removedByJoin => s
  | some r =>
    match r.phase, v with
    | .claiming, .granted =>
      if r.mode = .queued then s.grantRun r else s.yieldStray
    | .claiming, .appended => if r.mode = .queued then s else s.yieldStray
    | .claiming, .refused c => if r.mode = .queued then s.enterEnding .refused (some c) else s
    | .claiming, .removedByYield => s
    | .claiming, .removedByJoin => s
    | .running, .removedByYield => s.enterEnding .failed (some .claimLost)
    | .running, .removedByJoin => s.enterEnding .failed (some .claimLost)
    | .paused, .removedByYield => s.enterEnding .failed (some .claimLost)
    | .paused, .removedByJoin => s.enterEnding .failed (some .claimLost)
    | .running, _ => s
    | .paused, _ => s
    | .ending, _ => s

/-! ## The current step -/

/-- The step with its state changed and its timers stopped. -/
def State.stepTo (s : State) (c : CurStep) (st : StepState) : State := s.setSteps (s.steps.only { c with state := st })

/-- The step ends with an outcome, which ENDED hands to the run engine (R108, R135, R136). -/
def State.stepEnds (s : State) (c : CurStep) (o : RunOutcome) (cause : Option Cause) : State :=
  s.setSteps (s.steps.only { c with state := .ended, result := some (o, cause) })

/-- The step fails with a cause (R136): its channel is relieved, and it is retried or its on-fail applies.
After NESTED-FAILED it has no open record (R188, assumption 14). -/
def State.failStep (s : State) (c : CurStep) (d : StepDef) (cause : Cause) (retryable : Bool) : State :=
  let s1 := s.command d.chan .relieve
  if retryable = true ∧ s.steps.retries < d.retries then
    (s1.changeOpen fun x => { x with retries := s.steps.retries + 1 }).setSteps
      { s.steps.only { c with state := .closing } with retries := s.steps.retries + 1 }
  else
    let o : RunOutcome := match d.onFail with
      | .abort => .failed
      | .skip => .failedSkipped
    let s2 :=
      if c.noRecord = true ∧ cause = .nestedFailed then (s1.openRec s.steps.retries).closeRec o (some cause)
      else s1.closeRec o (some cause)
    s2.stepEnds c o (some cause)

/-- The step reaches its end (R135). -/
def State.stepDone (s : State) (c : CurStep) (d : StepDef) : State :=
  ((s.command d.chan (if d.autoRelieve then .relieve else .hold)).closeRec .done none).stepEnds c .done none

/-- The step is SKIPPED (R89, R135). -/
def State.stepSkipped (s : State) (c : CurStep) : State := (s.closeRec .skipped none).stepEnds c .skipped none

/-- The step enters OPENING and commands its channel by the channel's state (R130). -/
def State.enterOpening (s : State) (c : CurStep) (d : StepDef) : State :=
  let s1 := s.stepTo c .opening
  match (s.chans.get d.chan).state with
  | .closed | .resting => s1.command d.chan .openCmd
  | .opening | .opened | .driving _ | .holding | .relieving | .faulted => s1

/-- The way is clear and the step leaves ARMING (R126): a lead is owed by the base's steps with lead set while the mark
is no (R96). -/
def State.leaveArming (s : State) (r : Run) (c : CurStep) (d : StepDef) : State :=
  if d.lead = true ∧ r.leadServed = false ∧ r.nests = [] then
    s.setSteps { s.steps.only { c with state := .leading } with lead := some s.fitRow.lead }
  else s.enterOpening c d

/-- The nest is made (R122). -/
def State.makeNest (s : State) (r : Run) (d : StepDef) (m : Manoeuvre) : State :=
  let s1 := (s.command d.chan .hold).closeRec .nested none
  let num := s1.runs.counter + 1
  let top := r.top
  let below : RunEntry :=
    { top with resume := some top.idx, kept := s.steps.retries, nest := if r.nests.isEmpty then none else some .suspended }
  let entry : RunEntry :=
    { man := m, num := num, origin := .nest, idx := 1, left := (m.steps s1.straps.side).length, back := some top.num
      resume := none, kept := 0, nest := some .walking }
  let r1 := r.setTop below
  let s2 : State :=
    { s1 with runs := { s1.runs with
        run := some { r1 with nests := entry :: r1.nests, nestCount := r.nestCount + 1 }, counter := num } }
  s2.arm 0 true true

/-- One set names every resource of another. -/
def ResSet.covers (a b : ResSet) : Bool :=
  (a.pump || !b.pump) && (a.rear || !b.rear) && (a.kerb || !b.kerb) && (a.road || !b.road)

/-- The resource set of the base's record. -/
def State.baseSet (s : State) : ResSet :=
  match s.ownRecord with
  | some x => x.set
  | none => ResSet.empty

/-- The nest trigger fires: the checks of R121, in order. -/
def State.nestTrigger (s : State) (r : Run) (c : CurStep) (d : StepDef) (m : Manoeuvre) : State :=
  if r.nestCount = 3 then s.failStep c d .nestLimit true
  else if 2 ≤ r.nests.length then s.failStep c d .nestRefused true
  else if s.baseSet.covers m.needs then s.makeNest r d m
  else s.failStep c d .nestRefused true

/-- The limit a step reads at its first entry into DRIVING (R97, R132). -/
def State.limitOf (s : State) (d : StepDef) : Option Nat :=
  match d.limit with
  | .none => none
  | .fixed ms => some ms
  | .travel => some s.fitRow.travel

/-- DRIVE is commanded and drive time counts (R132). -/
def State.driveStep (s : State) (c : CurStep) (d : StepDef) : State :=
  (s.command d.chan (.drive d.dir)).setSteps
    (s.steps.only { c with limit := match c.limit with | some x => some x | none => s.limitOf d })

/-- The step enters STALLED (R134). -/
def State.stallStep (s : State) (c : CurStep) (d : StepDef) : State :=
  (s.command d.chan .hold).setSteps { s.steps.only { c with state := .stalled } with recovery := some recoveryMs }

/-! ## What an ended step brings about -/

/-- The top entry completes: the base ends COMPLETE, a nested entry leaves and the step below resumes (R109, R110). -/
def State.completeTop (s : State) (r : Run) : State :=
  match r.nests with
  | [] => s.enterEnding .complete none
  | _ :: rest =>
    let r1 := { r with nests := rest }
    let e := r1.top
    let r2 :=
      r1.setTop
        { e with idx := e.resume.getD e.idx, resume := none, nest := if rest.isEmpty then none else some .walking }
    (s.setRun r2).arm e.kept true true

/-- The top entry fails: the base ends FAILED, a nested entry leaves and the suspended step below fails NESTED-FAILED
(R111). Where that step's channel is FAULTED already, a retry is counted all the same, and the step then fails
DRIVER-FAULT in CLOSING at the engine's next move (DEDUCED, assumption 41). -/
def State.failTop (s : State) (r : Run) (cause : Option Cause) : State :=
  match r.nests with
  | [] => s.enterEnding .failed cause
  | _ :: rest =>
    let r1 := { r with nests := rest }
    let e := r1.top
    let r2 := r1.setTop { e with resume := none, nest := if rest.isEmpty then none else some .walking }
    let s1 := s.setRun r2
    match s1.stepOf e with
    | none => s1.enterEnding .failed cause
    | some d =>
      (s1.setSteps { StepUnit.none with retries := e.kept }).failStep
        { state := .closing, gate := .check, testSkip := false, limit := none, noRecord := true, result := none } d
        .nestedFailed (cause != some .driverFault)

/-- The run engine acts on the outcome of an ENDED step (R108). -/
def State.takeOutcome (s : State) (r : Run) (o : RunOutcome) (cause : Option Cause) : State :=
  if o = .failed then s.failTop r cause
  else
    let e := r.top
    let r1 := r.setTop { e with left := e.left - 1 }
    if e.left ≤ 1 then (s.setRun r1).completeTop r1
    else (s.setRun (r1.setTop { e with left := e.left - 1, idx := e.idx + 1 })).arm 0 true true

/-! ## The moves the engines make of themselves -/

/-- Every other channel of the node is CLOSED as it stands after the event (R127); one that passed through CLOSED to
OPENING within it is not (DESIGN CHOICE, assumption 50). -/
def State.othersClosed (s : State) (c : Chan) : Bool :=
  allChans.all fun x => x == c || (s.chans.get x).state == .closed

/-- RELIEVE to every other channel that is OPENING, OPEN, DRIVING or HOLDING (R127). -/
def State.relieveOthers (s : State) (c : Chan) : State :=
  allChans.foldl
    (fun t x => if x = c ∨ (t.chans.get x).state.settled = true then t else t.command x .relieve) s

/-- A step waiting at a gate starts the recovery window, unless it runs (R127, R128). -/
def State.startRecovery (s : State) : Option State :=
  match s.steps.recovery with
  | some _ => none
  | none => some (s.setSteps { s.steps with recovery := some recoveryMs })

/-- The step goes on to a gate of ARMING. -/
def State.toGate (s : State) (c : CurStep) (g : Gate) : State :=
  s.setSteps { s.steps with cur := some { c with gate := g } }

/-- The next move of a step in ARMING (R126 to R128). -/
def State.armingMove (s : State) (r : Run) (c : CurStep) (d : StepDef) : Option State :=
  match c.gate with
  | .check => some (if d.fence then (s.relieveOthers d.chan).toGate c .fence else s.toGate c .skip)
  | .fence => if s.othersClosed d.chan then some (s.toGate c .skip) else s.startRecovery
  | .skip =>
    match d.skipIf with
    | some (x, v) =>
      if c.testSkip && s.cond x == v then some (s.stepSkipped c) else some (s.toGate c .way)
    | none => some (s.toGate c .way)
  | .way => if s.clearWay d then some (s.leaveArming r c d) else s.startRecovery

/-- The step returns to ARMING (R125): a return entry, which keeps the retries and does not test the skip-if. -/
def State.returnToArming (s : State) : State := s.arm s.steps.retries false false

/-- The nest trigger's manoeuvre, if its condition holds (R93). -/
def State.triggerHolds (s : State) (d : StepDef) : Option Manoeuvre :=
  match d.nest with
  | some (x, v, m) => if s.cond x = v then some m else none
  | none => none

/-- The next move of a step in DRIVING (R132, R133, R139): end, trigger, loss, then DRIVE. -/
def State.drivingMove (s : State) (r : Run) (c : CurStep) (d : StepDef) : Option State :=
  if s.endHolds d s.steps.driveTime then some (s.stepDone c d)
  else
    match s.triggerHolds d with
    | some m => some (s.nestTrigger r c d m)
    | none =>
      if !s.interlock d || (d.powered && !s.pressure) then some (s.stallStep c d)
      else
        match (s.chans.get d.chan).state with
        | .driving x => if x = d.dir then none else some (s.failStep c d .channelRefused true)
        | .opened | .holding => some (s.driveStep c d)
        | .closed | .opening | .relieving | .resting | .faulted => some (s.failStep c d .channelRefused true)

/-- The next move of a step whose channel is neither FAULTED nor taken away (R126 to R136). -/
def State.plainMove (s : State) (r : Run) (c : CurStep) (d : StepDef) : Option State :=
  match c.state with
  | .arming => s.armingMove r c d
  | .leading => if s.clearWay d then none else some (s.returnToArming)
  | .opening =>
    if s.clearWay d then
      match (s.chans.get d.chan).state with
      | .opened | .holding => some (s.stepTo c (if d.powered then .priming else .driving))
      | .closed | .opening | .driving _ | .relieving | .resting | .faulted => none
    else some (s.returnToArming)
  | .priming =>
    if s.clearWay d then
      if s.pressure then some (s.stepTo c .driving)
      else
        match s.steps.priming with
        | some _ => none
        | none => some (s.setSteps { s.steps with priming := some primingMs })
    else some (s.returnToArming)
  | .driving => s.drivingMove r c d
  | .stalled =>
    if s.interlock d && (!d.powered || s.pressure) then some (s.stepTo c .driving) else none
  | .closing => if (s.chans.get d.chan).state = .closed then some (s.arm s.steps.retries true c.noRecord) else none
  | .paused | .ended => none

/-- The step states in which the engine watches its channel for RELIEVE (R139). -/
def StepState.holdsChannel : StepState → Bool
  | .opening | .priming | .driving | .stalled => true
  | .arming | .leading | .paused | .closing | .ended => false

/-- The next move of the step engine, and of the run engine on an ENDED step (R108, R124 to R139, R144,
assumption 26). A channel found FAULTED fails the step in every step state, one that was FAULTED when the step came into
CLOSING among them (DEDUCED, assumption 41). -/
def stepMove (s : State) : Option State :=
  match s.runs.run, s.steps.cur with
  | some r, some c =>
    if r.phase = .running then
      match c.result with
      | some (o, cause) => some (s.takeOutcome r o cause)
      | none =>
        match s.stepOf r.top with
        | none => none
        | some d =>
          if (s.chans.get d.chan).state = .faulted then some (s.failStep c d .driverFault false)
          else if c.state.holdsChannel = true ∧ (s.chans.get d.chan).state = .relieving then
            some (s.failStep c d .channelRefused true)
          else s.plainMove r c d
    else none
  | _, _ => none

/-- The next move of the run engine outside a step: it leaves ENDING, or follows its claim there (R98), pays the YIELD a
switch owes, or queues a DEFERRED claim (R104, R113, R120). -/
def runMove (s : State) : Option State :=
  match s.runs.run with
  | none => none
  | some r =>
    match r.phase with
    | .ending =>
      if s.settled then some (s.leaveEnding r)
      else if s.endingMode r.mode = r.mode then none
      else some (s.setRun { r with mode := s.endingMode r.mode })
    | .claiming =>
      if r.owesYield then
        (if s.settled then some ((s.setRun { r with owesYield := false }).queueYield) else none)
      else if r.mode = .deferred ∧ s.outstanding .claim = false ∧ s.outstanding .yield = false then
        some ((s.setRun { r with mode := .queued }).queueClaim r.base.man)
      else none
    | .running | .paused => none

end Sys2Proof.Machine
end

