-- ==== Sys2Proof/Machine/Settle.lean ====
section
/-! DEFINITION. What follows an event in the same event: the moves of the step engine and the run engine while one is
enabled, and then one pass each of the snapshot duty, beacon controller, indicators and pump service, which read the
state the engines have come to (assumption 23). The posture unit notes every change they publish (R82). -/

namespace Sys2Proof.Machine

/-! ## The snapshot duty -/

/-- The snapshot owed set is not empty (R30). -/
def State.owes (s : State) : Bool := allNodes.any fun n => s.member.owed[n]

/-- The node keeps one SNAPSHOT queued: its number is the lowest MEMBER's and its owed set is not empty (R30). -/
def State.snapshotDuty (s : State) : Bool :=
  s.member.mstate == .member && s.members.head? == some s.own && s.owes

/-- A SNAPSHOT is pending and not withdrawn. -/
def State.snapshotPending (s : State) : Bool :=
  s.link.tx.any fun e => e.frame.kind == .snapshot && !e.withdrawn

/-- The pending SNAPSHOT follows the duty (R30). -/
def snapshotPass (s : State) : State :=
  if s.snapshotDuty = s.snapshotPending then s
  else if s.snapshotDuty then s.queue .snapshot
  else s.withdraw .snapshot none

/-! ## The beacon controller -/

/-- A group's record is replaced. -/
def BeaconUnit.set (u : BeaconUnit) (g : Group) (x : GroupRec) : BeaconUnit :=
  match g with
  | .rear => { u with rear := x }
  | .kerb => { u with kerb := x }
  | .road => { u with road := x }
  | .flags => { u with flags := x }

/-- The lamp test is cut short: a running test is DONE and its slot timer stops (R180). -/
def BeaconUnit.cutTest (u : BeaconUnit) : BeaconUnit :=
  match u.test with
  | .slot _ => { u with test := .done, slot := none }
  | .notRun | .done => u

/-- Hazard starts or ends (R179); its start cuts the lamp test (R180). -/
def BeaconUnit.hazardTo (u : BeaconUnit) (b : Bool) : BeaconUnit :=
  if b = u.hazard then u
  else if b then { u.cutTest with hazard := true, flash := { timer := some hazardFlashMs, on := true } }
  else { u with hazard := false, flash := Flash.off }

/-- Hazard follows its causes (R179). -/
def hazardPass (s : State) : State := { s with beacon := s.beacon.hazardTo s.hazardCause }

/-- A group acts on the begin or the end of its demand (R176). -/
def GroupRec.demandChange (x : GroupRec) (b : Bool) : GroupRec :=
  match b, x.state with
  | true, .dark => { state := .warming, timer := some warmingMs, demanded := true }
  | true, .tail => { state := .lit, timer := none, demanded := true }
  | false, .lit => { state := .tail, timer := some tailMs, demanded := false }
  | _, _ => { x with demanded := b }

/-- A group's demand becomes what it is to be; a begin cuts the lamp test (R175, R176, R180). -/
def BeaconUnit.demandTo (u : BeaconUnit) (g : Group) (b : Bool) : BeaconUnit :=
  if b = (u.get g).demanded then u
  else if b then u.cutTest.set g ((u.get g).demandChange true)
  else u.set g ((u.get g).demandChange false)

/-- A group of a BEACON node follows its demand (R175, R176). -/
def demandPass (g : Group) (s : State) : State :=
  if s.straps.role = .beacon then { s with beacon := s.beacon.demandTo g (s.demand g) } else s

/-- The start lamp test as the node is, or is not, MEMBER (R180): it begins the first time the node is MEMBER, or is DONE
at once while a group is demanded or hazard is in force; it ends on leaving MEMBER. -/
def BeaconUnit.testFor (u : BeaconUnit) (isMember : Bool) : BeaconUnit :=
  match u.test, isMember with
  | .notRun, true =>
    if u.hazard || allGroups.any fun g => (u.get g).demanded then { u with test := .done }
    else { u with test := .slot .rear, slot := some testSlotMs }
  | .slot _, false => u.cutTest
  | _, _ => u

/-- The start lamp test of a BEACON node (R180). -/
def lampTestPass (s : State) : State :=
  if s.straps.role = .beacon then { s with beacon := s.beacon.testFor (s.member.mstate == .member) } else s

/-! ## Cab and NODE-OK flashes -/

/-- The FAULT lamp flashes on the CAB while it is MEMBER and the latch is set (R182, R184). -/
def State.cabFlashes (s : State) : Bool := s.straps.role == .cab && s.member.mstate == .member && s.latched

/-- The FAULT lamp's flash starts in the on phase, or stops (R182). -/
def cabPass (s : State) : State :=
  if s.cabFlashes = s.cab.timer.isSome then s
  else { s with cab := if s.cabFlashes then { timer := some cabFlashMs, on := true } else Flash.off }

/-- The NODE-OK flash starts in the on phase at a change of its pattern, or stops (R185). -/
def nodeOkPass (s : State) : State :=
  if okHalfPeriod s.member.mstate = s.nodeOk.timer then s
  else { s with nodeOk := { timer := okHalfPeriod s.member.mstate, on := (okHalfPeriod s.member.mstate).isSome } }

/-! ## The pump service -/

/-- A switch judged faulty is believed again once it is inactive (R170). The judgement stands until then: R169's words that
a later change does not undo it are read as saying that the judgement was made (DEDUCED, assumption 39). -/
def believePass (s : State) : State :=
  if s.pump.faulty && !s.input 15 then { s with pump := { s.pump with faulty := false } } else s

/-- The pump output turns on or off; a turn-off starts the idle timer, a turn-on stops it (R166). -/
def PumpUnit.turn (p : PumpUnit) (b : Bool) : PumpUnit :=
  if b = p.on then p
  else if b then { p with on := true, idle := none }
  else { p with on := false, idle := some pumpIdleMs }

/-- The pump output is decided again (R163, R165). -/
def pumpPass (s : State) : State := { s with pump := s.pump.turn s.pumpWanted }

/-- The plausibility timer runs while PRESSURE-SW is active, the output off and the switch believed (R169, R170). -/
def State.plausRuns (s : State) : Bool :=
  s.straps.role == .lift && s.input 15 && !s.pump.on && !s.pump.faulty

/-- The plausibility timer starts or stops (R169). -/
def plausPass (s : State) : State :=
  if s.plausRuns = s.pump.plaus.isSome then s
  else { s with pump := { s.pump with plaus := if s.plausRuns then some plausibilityMs else none } }

/-! ## Settling -/

/-- The engines' next move: the step engine's, or else the run engine's. -/
def engineMove (s : State) : Option State :=
  match stepMove s with
  | some t => some t
  | none => runMove s

/-- Moves are taken, each noted by the posture unit, until none is enabled; the fuel bounds the chain. -/
def settle : Nat → State → State
  | 0, s => s
  | n + 1, s =>
    match engineMove s with
    | some t => settle n (State.noteChange s t)
    | none => s

/-- The longest chain of moves one event is given; no event of the spec needs as many (assumption 23). -/
def settleFuel : Nat := 256

/-- The passes, in the order in which one event takes them (assumption 23). -/
def passes : List (State → State) :=
  [snapshotPass, hazardPass, demandPass .rear, demandPass .kerb, demandPass .road, demandPass .flags, lampTestPass
  , cabPass, nodeOkPass, believePass, pumpPass, plausPass]

/-- The passes are taken, each noted by the posture unit. -/
def follow (s : State) : State := passes.foldl (fun t f => State.noteChange t (f t)) s

/-- An event that turned `old` into `s` is finished: its own change is noted and what follows from it is taken. -/
def finish (old s : State) : State := follow (settle settleFuel (State.noteChange old s))

end Sys2Proof.Machine
end

