-- ==== Sys2Proof/Machine/Beacons.lean ====
section
/-! DEFINITION. The beacon controller's timers (R176, R179, R180) and the flash timers of the CAB's FAULT lamp (R182) and
of NODE-OK (R185). A timer's command in a state in which the timer does not run has no effect (assumption 3). -/

namespace Sys2Proof.Machine

/-- The check of a group's outputs finds a fault: over-current, or an open load while the outputs are driven (R70, R176,
R179, assumption 20). -/
def State.checkFails (s : State) (g : Group) (openLoad overCurrent : Bool) : Bool :=
  overCurrent || (openLoad && s.groupDriven g)

/-- A group's timer runs out (R176): the check that ends a warming, or the end of a tail. -/
def GroupRec.timerOut (x : GroupRec) (fails : Bool) : GroupRec :=
  match x.state with
  | .warming =>
    if fails then { x with state := .failed, timer := none }
    else if x.demanded then { x with state := .lit, timer := none }
    else { x with state := .tail, timer := some tailMs }
  | .tail => { x with state := .dark, timer := none }
  | .dark | .lit | .failed => x

/-- GROUP_TIMER (R176). -/
def execGroupTimer (g : Group) (openLoad overCurrent : Bool) (s : State) : Host.Outcome State Fault Refusal :=
  .next <| finish s <|
    match (s.beacon.get g).timer with
    | some _ =>
      { s with beacon := s.beacon.set g ((s.beacon.get g).timerOut (s.checkFails g openLoad overCurrent)) }
    | none => s

/-- A flash timer runs out: it is reloaded and the phase changes (R179, R182, R185). -/
def Flash.toggle (f : Flash) : Flash :=
  match f.timer with
  | some t => { timer := some t, on := !f.on }
  | none => f

/-- HAZARD_FLASH_TIMER (R179). -/
def execHazardFlashTimer (s : State) : Host.Outcome State Fault Refusal :=
  .next { s with beacon := { s.beacon with flash := s.beacon.flash.toggle } }

/-- The next slot of the lamp test (R180). -/
def nextSlotGroup : Group → Option Group
  | .rear => some .kerb
  | .kerb => some .road
  | .road => some .flags
  | .flags => none

/-- The check that ends a test slot (R180, assumption 29). -/
def GroupRec.slotOut (x : GroupRec) (fails : Bool) : GroupRec :=
  if fails then { x with state := .failed, timer := none } else x

/-- A test slot ends: the group is checked, and the next slot starts or the test is DONE (R180). -/
def State.endSlot (s : State) (g : Group) (fails : Bool) : State :=
  let u := s.beacon.set g ((s.beacon.get g).slotOut fails)
  { s with beacon :=
    match nextSlotGroup g with
    | some h => { u with test := .slot h, slot := some testSlotMs }
    | none => { u with test := .done, slot := none } }

/-- TEST_SLOT_TIMER (R180). -/
def execTestSlotTimer (openLoad overCurrent : Bool) (s : State) : Host.Outcome State Fault Refusal :=
  .next <| finish s <|
    match s.beacon.test, s.beacon.slot with
    | .slot g, some _ => s.endSlot g (s.checkFails g openLoad overCurrent)
    | _, _ => s

/-- CAB_FAULT_FLASH_TIMER (R182). -/
def execCabFaultFlashTimer (s : State) : Host.Outcome State Fault Refusal :=
  .next { s with cab := s.cab.toggle }

/-- NODE_OK_FLASH_TIMER (R185). -/
def execNodeOkFlashTimer (s : State) : Host.Outcome State Fault Refusal :=
  .next { s with nodeOk := s.nodeOk.toggle }

end Sys2Proof.Machine
end

