-- ==== Sys2Proof/Machine/Drivers.lean ====
section
/-! DEFINITION. Faults the output drivers sense (R70): on a channel (R144), on a lamp group (R177), on any other output
(R70, R168). A fault that its driver cannot sense at the moment has no effect (assumptions 3 and 19). -/

namespace Sys2Proof.Machine

/-- A channel with a driver fault (R144). -/
def ChanRec.faulted : ChanRec := { state := .faulted, held := false, settle := none }

/-- A driver fault reaches the channel of an output (R144). -/
def State.channelFault (s : State) (o : Fin 12) (k : DriverFault) : State :=
  match s.straps.role.chanOfOutput o with
  | none => s
  | some c => if s.senses o k then { s with chans := s.chans.set c ChanRec.faulted } else s

/-- CHANNEL_DRIVER_FAULT (R144). -/
def execChannelDriverFault (o : Fin 12) (k : DriverFault) (s : State) : Host.Outcome State Fault Refusal :=
  .next (finish s (s.channelFault o k))

/-- A group that is handed a fault (R177): in DARK, LIT or TAIL it fails; in WARMING, in its test slot or FAILED it does
not act. -/
def GroupRec.handFault (x : GroupRec) (inSlot : Bool) : GroupRec :=
  match x.state with
  | .dark | .lit | .tail => if inSlot then x else { x with state := .failed, timer := none }
  | .warming | .failed => x

/-- A driver fault reaches the group of an output (R177). -/
def State.lampFault (s : State) (o : Fin 12) (k : DriverFault) : State :=
  match s.straps.role.groupOfOutput o with
  | none => s
  | some g =>
    if s.senses o k then
      { s with beacon := s.beacon.set g ((s.beacon.get g).handFault (s.beacon.test == .slot g)) }
    else s

/-- LAMP_FAULT (R177). -/
def execLampFault (o : Fin 12) (k : DriverFault) (s : State) : Host.Outcome State Fault Refusal :=
  .next (finish s (s.lampFault o k))

/-- A driver fault on an output of no channel and no group sets its fault latch (R70, assumption 18). -/
def State.outputFault (s : State) (o : Fin 12) (k : DriverFault) : State :=
  match s.straps.role.chanOfOutput o, s.straps.role.groupOfOutput o with
  | none, none =>
    if s.senses o k then { s with lines := { s.lines with outLatch := s.lines.outLatch.set o true } } else s
  | _, _ => s

/-- OUTPUT_FAULT_LATCH (R70). -/
def execOutputFaultLatch (o : Fin 12) (k : DriverFault) (s : State) : Host.Outcome State Fault Refusal :=
  .next (finish s (s.outputFault o k))

end Sys2Proof.Machine
end

