-- ==== Sys2Proof/Machine/Body.lean ====
section
/-! DEFINITION. Entering and leaving the body: LISTEN, MEMBER, and the departure that ISOLATED, BARRED and UNFIT share
(R24, R33, R39, R41), with what a HALT or a departure does to requests (R72, R74). -/

namespace Sys2Proof.Machine

/-! ## Requests on a halt or a departure -/

/-- The input of a pendant function (R69). -/
def LiftFn.input : LiftFn → Fin 16
  | .up => 3
  | .down => 4
  | .tiltUp => 5
  | .tiltDown => 6
  | .fold => 7
  | .unfold => 8

/-- The pendant functions. -/
def allFns : List LiftFn := [.up, .down, .tiltUp, .tiltDown, .fold, .unfold]

/-- The functions whose input is active. -/
def State.activeFns (s : State) : List LiftFn := allFns.filter fun f => s.input f.input

/-- The detector on a HALT or a departure: a held request ends without an event and it is spent, and so it is while
ENABLE and a function are active (R74). -/
def State.heldAfterHalt (s : State) : HeldDetector :=
  match s.lines.held with
  | .held _ => .spent
  | .spent => .spent
  | .armed => if s.straps.role = .lift ∧ s.input 2 = true ∧ s.activeFns ≠ [] then .spent else .armed

/-- The request latches are cleared, the window stops, and the detector follows R74 (R72, R74). -/
def State.dropRequests (s : State) : State :=
  { s with lines := { s.lines with openLatch := false, closeLatch := false, window := none, held := s.heldAfterHalt } }

/-! ## Leaving -/

/-- The three states a node leaves the body into. -/
inductive Departure
  | isolated
  | barred
  | unfit
  deriving DecidableEq, Repr

/-- The membership state of a departure. -/
def Departure.mstate : Departure → MState
  | .isolated => .isolated
  | .barred => .barred
  | .unfit => .unfit

/-- The outcome of a departure's log record (R188). -/
def Departure.outcome : Departure → RunOutcome
  | .isolated => .isolated
  | .barred => .barred
  | .unfit => .unfit

/-- The link controller on a departure (R19): the attempt is abandoned, both queues are emptied, the veto run count is
0, and the line has to be found again. -/
def LinkUnit.left (l : LinkUnit) : LinkUnit :=
  { l with tx := [], rx := [], line := .quiet, vetoRun := 0, footing := false }

/-- The membership unit on a departure (R39, R41): the replica is discarded; the take count is kept. -/
def MemberUnit.left (m : MemberUnit) (d : Departure) (c : Cause) : MemberUnit :=
  { mstate := d.mstate, cause := some c, roster := Vector.replicate 8 Entry.blank, takeCount := m.takeCount
    bodyFit := none, owed := Vector.replicate 8 false, listenTimer := none, joinTimer := none
    restTimer := match d with | .isolated => some isolationRestMs | .barred | .unfit => none }

/-- A relay ends NO-REPLY as the node leaves MEMBER (R196, R198). -/
def PortUnit.left (p : PortUnit) : PortUnit :=
  match p.relay with
  | none => p
  | some _ => { p with answer := .sending [.noReply], relay := none, relayTimer := none }

/-- The node leaves the body: everything R39 lists, in the order R188 gives the log. -/
def State.leave (s : State) (d : Departure) (c : Cause) : State :=
  let s1 := ((s.endStack .isolated).writeRequest none d.outcome c).dropRequests
  { s1 with
    link := s1.link.left
    member := s1.member.left d c
    table := { claims := [], halt := HaltState.off }
    post := { period := none, spacing := none, changed := false }
    port := s1.port.left }

/-! ## Entering -/

/-- The node enters LISTEN: the listen timer starts and the line is watched from the next idle gap (R19, R24). -/
def State.enterListen (s : State) : State :=
  { s with
    member := { s.member with mstate := .listen, listenTimer := some listenMs, restTimer := none }
    link := { s.link with footing := false } }

/-- The node enters JOIN-WAIT and queues a JOIN (R25). -/
def State.enterJoinWait (s : State) : State :=
  State.queue { s with member := { s.member with mstate := .joinWait, listenTimer := none } } .join

/-- The node enters MEMBER (R33): its own entry is MEMBER, its JOIN is withdrawn, a POSTURE is queued and its period
starts; a stop held while the latch is clear queues HALT (R152). A spacing timer that runs in a node that was MEMBER goes on
(assumption 49). -/
def State.enterMember (s : State) : State :=
  let s1 : State :=
    { s with
      member := { s.member with mstate := .member, listenTimer := none, joinTimer := none }
      post := { s.post with period := some posturePeriodMs } }
  let s2 := ((s1.setEntry s1.own { s1.entry s1.own with state := .member, silence := none }).withdraw .join none).queue
    .posture
  if s2.stopPressed && !s2.latched then s2.queue (.halt s2.heldStopSource) else s2

end Sys2Proof.Machine
end

