-- ==== Sys2Proof/Machine/Frames.lean ====
section
/-! DEFINITION. Processing the head of the receive queue (R17): HALT and CLEAR (chapter 8), EVICT, SNAPSHOT, JOIN and
POSTURE (chapter 2), CLAIM and YIELD (chapter 3), PROBE and REPLY (chapter 11). -/

namespace Sys2Proof.Machine

/-- The frame at the head of the receive queue is removed and, if it is of the kind, processed by `f` (R17). A head of
another kind is another command's. -/
def State.process (s : State) (k : Kind) (f : RxRec → State → State) : State :=
  match s.link.rx with
  | [] => s
  | r :: rest => if r.kind = k then f r { s with link := { s.link with rx := rest } } else s

/-- The node is MEMBER. -/
def State.isMember (s : State) : Bool := s.member.mstate == .member

/-- The node builds its provisional roster: LISTEN or JOIN-WAIT (R24). -/
def State.isProvisional (s : State) : Bool := s.member.mstate == .listen || s.member.mstate == .joinWait

/-- The table frames still in the receive queue, behind the one being processed (R28, R32). -/
def State.tableBehind (s : State) : BitVec 8 :=
  BitVec.ofNat 8 (s.link.rx.filter fun r => r.kind.isTable).length

/-! ## Halt and clear -/

/-- What a processed HALT does to the node (R153, R154, R112, R72, R74, assumption 12). -/
def State.halt (s : State) (from_ : Node) (src : StopSource) : State :=
  (({ s with table := { claims := [], halt := s.table.halt.raised from_ } }.endStack .halted).dropRequests).writeRequest
    none .halted src.cause

/-- The processing of a HALT (R153, R156). -/
def State.takeHalt (r : RxRec) (s : State) : State :=
  match readHaltPayload r.payload with
  | none => s
  | some src => if s.isMember then s.halt r.sender src else s

/-- HALT (R153). -/
def execHalt (s : State) : Host.Outcome State Fault Refusal := .next (finish s (s.process .halt State.takeHalt))

/-- A CLEAR from a node clears the halt: it is the originator, or holds the role CAB while the originator's entry is not
MEMBER (R158). -/
def State.clears (s : State) (c : Node) : Bool :=
  match s.table.halt.latch with
  | none => false
  | some o => c == o || ((s.entry c).role == some .cab && (s.entry o).state != .member)

/-- The halt is cleared, and a stop still held queues HALT (R158, R159). -/
def State.clearHalt (s : State) : State :=
  let s1 : State := { s with table := { s.table with halt := HaltState.off } }
  if s1.stopPressed then s1.queue (.halt s1.heldStopSource) else s1

/-- The processing of a CLEAR (R158, R156). -/
def State.takeClear (r : RxRec) (s : State) : State :=
  match readEmptyPayload r.payload with
  | none => s
  | some _ => if s.isMember && s.clears r.sender then s.clearHalt else s

/-- CLEAR (R158). -/
def execClear (s : State) : Host.Outcome State Fault Refusal := .next (finish s (s.process .clear State.takeClear))

/-! ## Records and verdicts -/

/-- The record of a node is removed and grants are evaluated; the run engine gets the verdict: `v` for the node's own
record, or GRANTED where the evaluation turned the node's own record (R58, R59, R60, R64, R65). -/
def State.removeFor (s : State) (n : Node) (v : Verdict) : State :=
  let s1 := s.removeRecord n
  if n = s.own then (if hasClaim s.table.claims n then s1.takeVerdict v else s1)
  else if !s.ownGranted && s1.ownGranted then s1.takeVerdict .granted
  else s1

/-- The processing of a YIELD (R58). -/
def State.takeYield (r : RxRec) (s : State) : State :=
  match readEmptyPayload r.payload with
  | none => s
  | some _ => if s.isMember then s.removeFor r.sender .removedByYield else s

/-- YIELD (R58). -/
def execYield (s : State) : Host.Outcome State Fault Refusal := .next (finish s (s.process .yield State.takeYield))

/-- The processing of a CLAIM by a MEMBER: admission, the list after it, and the node's own verdict (R50, R51, R64). -/
def State.claimFrom (s : State) (c : Node) (m : ClaimMsg) : State :=
  match s.admission c m with
  | some cause => if c = s.own then s.takeVerdict (.refused cause) else s
  | none =>
    let s1 := s.setClaims (s.admitted c m)
    if c = s.own then s1.takeVerdict (if s1.ownGranted then .granted else .appended) else s1

/-- The processing of a CLAIM (R50, R47). -/
def State.takeClaim (r : RxRec) (s : State) : State :=
  match readClaimPayload r.payload with
  | none => s
  | some m => if s.isMember then s.claimFrom r.sender m else s

/-- CLAIM (R50). -/
def execClaim (s : State) : Host.Outcome State Fault Refusal := .next (finish s (s.process .claim State.takeClaim))

/-! ## EVICT -/

/-- The effect of an EVICT on a MEMBER (R35, R59). -/
def State.evict (s : State) (x : Node) : State :=
  if x = s.own then s.leave .isolated .evicted
  else
    match (s.entry x).state with
    | .member | .joining =>
      ((((s.setEntry x ((s.entry x).leave .absent (s.entry x).role)).setOwed x false).dropPending .evict (some x))).removeFor
        x .removedByYield
    | .unknown | .absent | .barred => s

/-- The processing of an EVICT (R35). -/
def State.takeEvict (r : RxRec) (s : State) : State :=
  match readEvictPayload r.payload with
  | none => s
  | some x => if s.isMember then s.evict x else s

/-- EVICT (R35). -/
def execEvict (s : State) : Host.Outcome State Fault Refusal := .next (finish s (s.process .evict State.takeEvict))

/-! ## SNAPSHOT -/

/-- A MEMBER processes a SNAPSHOT for another node (R32). -/
def State.snapOther (s : State) (x : Node) : State :=
  let s1 :=
    if (s.entry x).state = .joining then s.setEntry x { s.toMember x (s.entry x) with heard := true } else s
  s1.setOwed x false

/-- An entry under the node's own snapshot (R32, R79). -/
def Entry.bySnap (e : Entry) (isOwn : Bool) (carried : EState × Option RoleSide) : Entry :=
  let peer : Bool := carried.1 == .member && !isOwn
  { e with
    state := carried.1, role := carried.2, agree := true, fresh := false, heard := e.heard || peer
    silence := if peer then some silenceMs else none }

/-- The replica of the node's own snapshot is taken over (R32, R62). The take count is set anew, while a POSTURE already
taken behind the SNAPSHOT keeps the count noted at its take (DEDUCED, assumption 45). -/
def State.adopt (s : State) (m : SnapMsg) : State :=
  { s with
    member := { s.member with
      roster := Vector.ofFn fun i : Fin 8 => (s.entry i).bySnap (i == s.own) m.roster[i]
      takeCount := m.take + 1 + s.tableBehind
      bodyFit := some m.fit
      owed := Vector.ofFn fun i : Fin 8 => i != s.own && m.roster[i].1 == .joining }
    table := { claims := evalGrants m.claims, halt := m.halt } }

/-- A node that believed itself MEMBER ends its runs and yields before it takes its snapshot (R32). -/
def State.resync (s : State) : State := if s.isMember then (s.endStack .resync).queueYield else s

/-- The subject processes its own SNAPSHOT (R32, R33, R41). -/
def State.snapOwn (s : State) (m : SnapMsg) : State :=
  match m.roster[s.own].1 with
  | .joining => (s.resync.adopt m).enterMember
  | .barred => (s.resync.adopt m).leave .barred (if m.fit = s.straps.fit then .roleLimit else .fitting)
  | .unknown | .member | .absent => s

/-- The processing of a SNAPSHOT (R32). -/
def State.takeSnapshot (r : RxRec) (s : State) : State :=
  match readSnapPayload r.payload with
  | none => s
  | some m =>
    if m.subject = s.own then (if s.isMember || s.member.mstate == .joinWait then s.snapOwn m else s)
    else if s.isMember then s.snapOther m.subject
    else s

/-- SNAPSHOT (R32). -/
def execSnapshot (s : State) : Host.Outcome State Fault Refusal :=
  .next (finish s (s.process .snapshot State.takeSnapshot))

/-! ## JOIN -/

/-- The replica after a founding JOIN (R28). A POSTURE already taken behind the JOIN keeps the count noted at its take
(DEDUCED, assumption 45). -/
def State.found (s : State) (j : Node) (m : JoinMsg) : State :=
  { s with
    member := { s.member with
      roster := Vector.ofFn fun i : Fin 8 =>
        if i = j then { s.toMember j (s.entry j) with role := some m.role, heard := (s.entry j).heard || j != s.own }
        else (s.entry i).leave .unknown none
      takeCount := 1 + s.tableBehind
      bodyFit := some m.fit
      owed := Vector.replicate 8 false }
    table := { claims := [], halt := HaltState.off } }

/-- A node in LISTEN or JOIN-WAIT processes a JOIN that is no duplicate (R28, steps 2 and 3). -/
def State.joinProvisional (s : State) (j : Node) (m : JoinMsg) : State :=
  if s.members.isEmpty then (if j = s.own then (s.found j m).enterMember else s.found j m)
  else s.setEntry j ((s.entry j).leave .joining (some m.role))

/-- How many entries of a role and side a body admits (R29). -/
def roleLimit : RoleSide → Nat
  | .cab | .lift | .beacon => 1
  | .hatch _ => 2

/-- The entries other than one that are MEMBER or JOINING with a role and side (R29). -/
def State.holdersOfRole (s : State) (j : Node) (r : RoleSide) : Nat :=
  (allNodes.filter fun n =>
    n != j && ((s.entry n).state == .member || (s.entry n).state == .joining) && (s.entry n).role == some r).length

/-- The state a MEMBER gives the joiner's entry (R29, steps 2 to 4). -/
def State.joinState (s : State) (j : Node) (m : JoinMsg) : EState :=
  if s.member.bodyFit ≠ some m.fit then .barred
  else if roleLimit m.role ≤ s.holdersOfRole j m.role then .barred
  else .joining

/-- A MEMBER processes a JOIN that is no duplicate (R29, R60). -/
def State.joinMember (s : State) (j : Node) (m : JoinMsg) : State :=
  let s1 :=
    match (s.entry j).state with
    | .member | .joining => s.removeFor j .removedByJoin
    | .unknown | .absent | .barred => s
  (s1.setEntry j ((s.entry j).leave (s.joinState j m) (some m.role))).setOwed j true

/-- The processing of a JOIN (R28, R29, R41). -/
def State.takeJoin (r : RxRec) (s : State) : State :=
  match readJoinPayload r.payload with
  | none => s
  | some m =>
    if !(s.isMember || s.isProvisional) then s
    else if r.sender = s.own ∧ m.serial ≠ s.serial then s.leave .barred .duplicate
    else if s.isMember then s.joinMember r.sender m
    else s.joinProvisional r.sender m

/-- JOIN (R29). -/
def execJoin (s : State) : Host.Outcome State Fault Refusal := .next (finish s (s.process .join State.takeJoin))

/-! ## POSTURE -/

/-- The last conditions a POSTURE carries (R26). -/
def PostureMsg.last (m : PostureMsg) : Last := { conds := m.conds, sum := m.sum, halted := m.halted }

/-- An entry of the provisional roster under a POSTURE from `p` (R27, R79, assumption 25). -/
def State.bySighting (s : State) (p : Node) (m : PostureMsg) (n : Node) (e : Entry) : Entry :=
  let e1 := if n = p then { e with last := some m.last } else e
  let e2 := if (n = p ∨ m.members.getLsbD n.val = true) ∧ e1.state ≠ .member then s.toMember n e1 else e1
  if n = p then { e2 with fresh := true } else e2

/-- A MEMBER applies a POSTURE from a peer (R27, R37, R79). The carried count is compared with the one noted at the take,
also where the node's own count has been set anew since (DEDUCED, assumption 45). -/
def State.byPosture (s : State) (p : Node) (m : PostureMsg) (noted : BitVec 8) : State :=
  let e := { s.entry p with last := some m.last }
  match e.state with
  | .member => s.setEntry p { e with agree := m.take == noted, fresh := true }
  | .absent => (s.setEntry p e).queue (.evict p)
  | .unknown | .joining | .barred => s.setEntry p e

/-- More peers are marked DISAGREE than AGREE (R38). -/
def State.diverged (s : State) : Bool :=
  let peers := s.members.filter fun n => n != s.own
  decide ((peers.filter fun n => (s.entry n).agree).length < (peers.filter fun n => !(s.entry n).agree).length)

/-- A MEMBER that finds itself diverged isolates (R38). -/
def State.checkDiverged (s : State) : State := if s.diverged then s.leave .isolated .diverged else s

/-- The processing of a POSTURE (R27, R38, assumption 24). -/
def State.takePosture (r : RxRec) (s : State) : State :=
  match readPosturePayload r.payload with
  | none => s
  | some m =>
    if !(s.isMember || s.isProvisional) then s
    else if r.sender = s.own then
      (if m.serial ≠ s.serial then s.leave .barred .duplicate else if s.isMember then s.checkDiverged else s)
    else if s.isMember then (s.byPosture r.sender m r.noted).checkDiverged
    else s.mapRoster (s.bySighting r.sender m)

/-- POSTURE (R27). -/
def execPosture (s : State) : Host.Outcome State Fault Refusal :=
  .next (finish s (s.process .posture State.takePosture))

/-! ## PROBE and REPLY -/

/-- The status summary of the node (R195, R197). -/
def State.statusSummary (s : State) : StatusSummary :=
  { mstate := s.member.mstate, cause := s.member.cause, conds := s.condWord, sum := s.summary, halt := s.table.halt
    take := s.member.takeCount }

/-- The record at an index of the log, index 0 the oldest (R190). -/
def State.recordAt (s : State) (i : Nat) : Option LogRec := s.log.slots[i]?.map LogSlot.data

/-- The content of the REPLY to a request (R197). -/
def State.replyContent (s : State) : ProbeReq → ReplyContent
  | .status => .summary s.statusSummary
  | .log i =>
    match s.recordAt i.val with
    | some r => .record r
    | none => .none

/-- The processing of a PROBE (R197). -/
def State.takeProbe (r : RxRec) (s : State) : State :=
  match readProbePayload r.payload with
  | none => s
  | some m =>
    if s.isMember && m.target == s.own then s.queue (.reply r.sender m.req (s.replyContent m.req)) else s

/-- PROBE (R197). -/
def execProbe (s : State) : Host.Outcome State Fault Refusal := .next (finish s (s.process .probe State.takeProbe))

/-- The lines of a REPLY's content: conditions are read by the role of the target's roster entry, and a record shows
the index asked for (R196). -/
def contentLines (role : Option Role) (req : ProbeReq) : ReplyContent → List AnswerLine
  | .none => [.none, .ok]
  | .summary x =>
    [.state x.mstate x.cause, .take x.take, .cond (trueConds role x.conds), .run x.sum none, .halt x.halt, .ok]
  | .record r => [.record (match req with | .log i => i.val | .status => 0) r, .ok]

/-- The relay ends with an answer (R196). -/
def PortUnit.endRelay (p : PortUnit) (lines : List AnswerLine) : PortUnit :=
  { p with answer := .sending lines, relay := none, relayTimer := none }

/-- A REPLY matches the relay slot (R196). -/
def State.relayMatches (s : State) (sender : Node) (m : ReplyMsg) : Bool :=
  s.port.relay == some { target := sender, req := m.req } && m.requester == s.own

/-- The processing of a REPLY (R196, R197). -/
def State.takeReply (r : RxRec) (s : State) : State :=
  match readReplyPayload r.payload with
  | none => s
  | some m =>
    if s.isMember && s.relayMatches r.sender m then
      { s with port :=
        s.port.endRelay (contentLines ((s.entry r.sender).role.map RoleSide.role) m.req m.content) }
    else s

/-- REPLY (R196). -/
def execReply (s : State) : Host.Outcome State Fault Refusal := .next (finish s (s.process .reply State.takeReply))

end Sys2Proof.Machine
end

