-- ==== Sys2Proof/Machine/Resets.lean ====
section
/-! DEFINITION. Power-on reset and external RESET (R20, R21, R42, R48, R84, R99, R124, R149, R150, R166, R170, R174,
R184, R185, R186, R191, R198). -/

namespace Sys2Proof.Machine

/-- The filter time of an input in a role (R67). -/
def filterMs (r : Role) (i : Fin 16) : Nat := if isStopLoop r i then stopFilterMs else switchFilterMs

/-- The raw level of an input, active or not: an open stop loop is active, and every other input is active while its
contact is closed (R67). -/
def rawActive (r : Role) (i : Fin 16) (closed : Bool) : Bool := if isStopLoop r i then !closed else closed

/-- The filter timer of an input: it runs while the raw level differs from the filtered value (R67). -/
def filterTimer (r : Role) (i : Fin 16) (closed active : Bool) : Timer :=
  if rawActive r i closed = active then none else some (filterMs r i)

/-- An input at the end of reset: its filtered value is inactive and its filter runs from the raw level (R67). -/
def Input.restart (r : Role) (i : Fin 16) (x : Input) : Input :=
  { closed := x.closed, active := false, timer := filterTimer r i x.closed false }

/-- The strap values of sampled pin levels (R21). -/
def StrapPins.sample (p : StrapPins) : Straps :=
  { node := p.node, role := Role.ofCode p.role, side := if p.side then .road else .kerb, fit := p.fit }

/-- The line unit after a reset (R84): the contacts are what they are; STANDSTILL's timer starts on the CAB (R76). -/
def LineUnit.restart (l : LineUnit) (r : Role) : LineUnit :=
  { State.reset.lines with
    inputs := Vector.ofFn fun i : Fin 16 => Input.restart r i l.inputs[i]
    standTimer := if r = .cab then some standstillMs else none }

/-- What both resets leave of every block, with the log given: the reset state under the sampled straps. The serial, the
switch contacts and the queue of commands are no state that a reset sets. -/
def State.restarted (s : State) (p : StrapPins) (log : LogUnit) : State :=
  { State.reset with
    straps := StrapPins.sample p, serial := s.serial, lines := s.lines.restart (StrapPins.sample p).role, log := log
    pending := s.pending }

/-- Power-on reset (R42, R191): every block is reset and the log is empty. -/
def execPowerOnReset (p : StrapPins) (s : State) : Host.Outcome State Fault Refusal :=
  .next (s.restarted p State.reset.log)

/-- The RESTART record (R187, R188): the run number counter is 0 by then. -/
def restartRec : LogRec :=
  { kind := .restart, run := 0, depth := 0, man := none, idx := none, outcome := .done, cause := none, retries := 0
    startTag := 0, endTag := some 0, height := none }

/-- The log kept over an external RESET: open records are closed with outcome CUT and no end tag (R191). -/
def LogUnit.cutOpen (l : LogUnit) : LogUnit :=
  { tag := 0, wpos := l.wpos
    slots := l.slots.map fun x => if x.data.outcome = .inProgress then { x with data := { x.data with outcome := .cut } } else x }

/-- External RESET (R191): every block is reset, the log is kept, and a RESTART record is written as the youngest. -/
def execExternalReset (p : StrapPins) (s : State) : Host.Outcome State Fault Refusal :=
  .next ((s.restarted p s.log.cutOpen).writeRec restartRec)

end Sys2Proof.Machine
end

