-- ==== Sys2Proof/Machine/Lines.lean ====
section
/-! DEFINITION. The line unit's events (chapter 4): raw and filtered changes of the switch inputs with everything their
readers do at once (R67 to R75, R145, R146, R151, R157, R177), the pulse inputs, STANDSTILL and the request window. -/

namespace Sys2Proof.Machine

/-! ## Raw changes -/

/-- An input's record is replaced. -/
def State.setInput (s : State) (i : Fin 16) (x : Input) : State :=
  { s with lines := { s.lines with inputs := s.lines.inputs.set i x } }

/-- The contact of an input changes, and its filter timer restarts, or stops where the raw level is back at the filtered
value (R67). -/
def Input.rawChange (r : Role) (i : Fin 16) (x : Input) (closed : Bool) : Input :=
  { x with closed := closed, timer := filterTimer r i closed x.active }

/-- RAW_INPUT_CHANGE (R67). -/
def execRawInputChange (i : Fin 16) (closed : Bool) (s : State) : Host.Outcome State Fault Refusal :=
  .next <|
    if s.lines.inputs[i].closed = closed then s
    else s.setInput i (Input.rawChange s.straps.role i s.lines.inputs[i] closed)

/-! ## Stop and ACK -/

/-- The press edge of a stop loop: every channel is relieved, and a MEMBER queues HALT and withdraws its CLEAR (R146,
R151). -/
def State.stopPress (s : State) (src : StopSource) : State :=
  let s1 := s.relieveAll
  if s1.isMember then (s1.queue (.halt src)).withdraw .clear none else s1

/-- A FAULTED channel returns to CLOSED (R145). -/
def ChanRec.acked (c : ChanRec) : ChanRec := if c.state = .faulted then ChanRec.closed else c

/-- A FAILED group without demand returns to DARK (R177). -/
def GroupRec.acked (x : GroupRec) : GroupRec :=
  if x.state = .failed ∧ x.demanded = false then { x with state := .dark } else x

/-- The groups after an ACK press edge (R177). -/
def BeaconUnit.acked (u : BeaconUnit) : BeaconUnit :=
  { u with rear := u.rear.acked, kerb := u.kerb.acked, road := u.road.acked, flags := u.flags.acked }

/-- An ACK queues CLEAR (R157). -/
def State.ackClears (s : State) : Bool :=
  match s.table.halt.latch with
  | none => false
  | some o =>
    s.isMember && !s.stopPressed &&
      (o == s.own || (s.straps.role == .cab && (s.entry o).state != .member))

/-- The press edge of ACK with its four readers (R68). -/
def State.ackPress (s : State) : State :=
  let s1 : State :=
    { s with
      lines := { s.lines with outLatch := Vector.replicate 12 false }
      chans := if s.runs.run.isNone then s.chans.each ChanRec.acked else s.chans
      beacon := s.beacon.acked }
  if s1.ackClears then s1.queue .clear else s1

/-! ## The held-request detector -/

/-- The input is ENABLE or a function input of LIFT (R69). -/
def isPendantInput (i : Fin 16) : Bool := 2 ≤ i.val && i.val ≤ 8

/-- The detector is replaced. -/
def State.setHeld (s : State) (h : HeldDetector) : State := { s with lines := { s.lines with held := h } }

/-- The function of the pair ENABLE and exactly one function, if they are active (R73). -/
def State.heldPair (s : State) : Option LiftFn :=
  if s.input 2 then (match s.activeFns with | [f] => some f | _ => none) else none

/-- A pendant input has become active (R73). -/
def State.pendantOn (s : State) (i : Fin 16) : State :=
  match s.lines.held with
  | .armed =>
    match s.heldPair with
    | some f => (s.setHeld (.held f)).heldBegin f
    | none => s
  | .held f => if i = 2 ∨ i = f.input then s else (s.setHeld .spent).heldEnd f
  | .spent => s

/-- A pendant input has become inactive (R73). -/
def State.pendantOff (s : State) (i : Fin 16) : State :=
  match s.lines.held with
  | .armed => if i ≠ 2 ∧ s.heldPair.isSome = true then s.setHeld .spent else s
  | .held f => if i = 2 ∨ i = f.input then (s.setHeld .armed).heldEnd f else s
  | .spent => if s.input 2 = false ∨ s.activeFns = [] then s.setHeld .armed else s

/-! ## The height count and the request latches -/

/-- The height count is set (R75). -/
def State.setHeight (s : State) (h : Nat) : State := { s with lines := { s.lines with height := some h } }

/-- A press edge of the OPEN or the CLOSE request: it sets the latch, and starts the window where both were clear
(R71). -/
def LineUnit.pressLatch (l : LineUnit) (isOpen : Bool) : LineUnit :=
  { l with
    openLatch := l.openLatch || isOpen, closeLatch := l.closeLatch || !isOpen
    window := if l.openLatch || l.closeLatch then l.window else some windowMs }

/-- The other button of the same request is inactive, so that this one's press is the request's press edge (R69). -/
def State.soleButton (s : State) (i : Fin 16) : Bool :=
  match i with
  | 2 => !s.input 4
  | 4 => !s.input 2
  | 3 => !s.input 5
  | 5 => !s.input 3
  | _ => false

/-- A panel button has become active (R69, R71). -/
def State.panelPress (s : State) (i : Fin 16) : State :=
  if s.soleButton i then { s with lines := s.lines.pressLatch (i == 2 || i == 4) } else s

/-! ## Filtered changes -/

/-- The readers of an input that has become active (R68, R69, R71, R73, R75). -/
def State.becameActive (s : State) (i : Fin 16) : State :=
  if isStopLoop s.straps.role i then s.stopPress (if i = 0 then .panel else .pendant)
  else if i = 1 then s.ackPress
  else
    match s.straps.role with
    | .lift =>
      if isPendantInput i then s.pendantOn i
      else if i = 12 then s.setHeight 0
      else if i = 13 then s.setHeight s.fitRow.bed
      else s
    | .hatch => s.panelPress i
    | .cab | .beacon => s

/-- The readers of an input that has become inactive (R68, R73). -/
def State.becameInactive (s : State) (i : Fin 16) : State :=
  match s.straps.role with
  | .lift => if isPendantInput i then s.pendantOff i else s
  | .cab | .hatch | .beacon => s

/-- The filter of an input runs out: the filtered value changes and is handed to its readers (R67). -/
def State.filterExpiry (s : State) (i : Fin 16) : State :=
  let x := s.lines.inputs[i]
  let level := rawActive s.straps.role i x.closed
  let s1 := s.setInput i { x with active := level, timer := none }
  if level then s1.becameActive i else s1.becameInactive i

/-- INPUT_FILTER_EXPIRY (R67). -/
def execInputFilterExpiry (i : Fin 16) (s : State) : Host.Outcome State Fault Refusal :=
  .next <| finish s <|
    match s.lines.inputs[i].timer with
    | some _ => s.filterExpiry i
    | none => s

/-! ## Pulses and timers -/

/-- The height count after a STROKE pulse (R75). -/
def State.strokeHeight (s : State) (h : Nat) : Nat :=
  match s.chans.lift.state with
  | .driving .up => min (s.fitRow.bed + 63) (h + 1)
  | .driving .down => min (s.fitRow.bed + 63) (h - 1)
  | _ => h

/-- STROKE_PULSE (R75). -/
def execStrokePulse (s : State) : Host.Outcome State Fault Refusal :=
  .next <| finish s <|
    match s.straps.role, s.lines.height with
    | .lift, some h => s.setHeight (s.strokeHeight h)
    | _, _ => s

/-- ROAD_SPEED_PULSE (R76). -/
def execRoadSpeedPulse (s : State) : Host.Outcome State Fault Refusal :=
  .next <| finish s <|
    if s.straps.role = .cab then
      { s with lines := { s.lines with standstill := false, standTimer := some standstillMs } }
    else s

/-- STANDSTILL_TIMER (R76). -/
def execStandstillTimer (s : State) : Host.Outcome State Fault Refusal :=
  .next <| finish s <|
    match s.straps.role, s.lines.standTimer with
    | .cab, some _ => { s with lines := { s.lines with standstill := true, standTimer := none } }
    | _, _ => s

/-- The run engine takes the request latches (R71, R102). -/
def State.takeLatches (s : State) : State :=
  let s1 : State := { s with lines := { s.lines with openLatch := false, closeLatch := false, window := none } }
  match s.lines.openLatch, s.lines.closeLatch with
  | true, true => s1.writeRequest none .refused .panelConflict
  | true, false => s1.touchRequest .openHatch
  | false, true => s1.touchRequest .closeHatch
  | false, false => s1

/-- REQUEST_WINDOW_TIMER (R71). -/
def execRequestWindowTimer (s : State) : Host.Outcome State Fault Refusal :=
  .next <| finish s <|
    match s.straps.role, s.lines.window with
    | .hatch, some _ => s.takeLatches
    | _, _ => s

end Sys2Proof.Machine
end

