-- ==== Sys2Proof/Machine/Link.lean ====
section
/-! DEFINITION. The link controller's events (chapter 1): the loop test, the attempt, the ways it breaks, the veto slot
with the take, the transmit guard and the idle gap. -/

namespace Sys2Proof.Machine

/-! ## Contents built at the start of an attempt -/

/-- The JOIN of the node (R25). -/
def State.joinMsg (s : State) : JoinMsg := { role := s.straps.roleSide, fit := s.straps.fit, serial := s.serial }

/-- The member set of a POSTURE: weight 2 to the power n for each node held MEMBER (R78, R83). The node's own number is in
it where its own entry is MEMBER: a MEMBER whose own entry its own late JOIN has set JOINING (R29) leaves it out (DESIGN
CHOICE, assumption 38). -/
def State.memberSet (s : State) : BitVec 8 :=
  BitVec.ofNat 8 ((s.members.map fun n => 2 ^ n.val).sum)

/-- The POSTURE of the node as it stands (R83). -/
def State.postureMsg (s : State) : PostureMsg :=
  { take := s.member.takeCount, members := s.memberSet, conds := s.condWord, sum := s.summary, halted := s.latched
    serial := s.serial }

/-- The subject of a SNAPSHOT: the lowest node number owed one (R30). -/
def State.owedSubject (s : State) : Node := (allNodes.find? fun n => s.member.owed[n]).getD 0

/-- The SNAPSHOT of the node's replica as it stands (R31). -/
def State.snapMsg (s : State) : SnapMsg :=
  { subject := s.owedSubject, fit := s.member.bodyFit.getD s.straps.fit, take := s.member.takeCount
    halt := s.table.halt
    roster := Vector.ofFn fun i : Fin 8 => ((s.entry i).state, (s.entry i).role)
    claims := s.table.claims }

/-- The payload of a pending frame as an attempt fixes it (R14). -/
def State.payloadOf (s : State) : TxFrame → List Byte
  | .halt src => haltPayload src
  | .clear => []
  | .evict n => [byte n.val]
  | .yield => []
  | .claim set units man => ClaimMsg.payload { set := set.code, units := units, man := man }
  | .snapshot => s.snapMsg.payload
  | .join => s.joinMsg.payload
  | .posture => s.postureMsg.payload
  | .probe target req => ProbeMsg.payload { target := target, req := req }
  | .reply requester req content => ReplyMsg.payload { requester := requester, req := req, content := content }

/-! ## The loop test -/

/-- The loop test passes when every bit read equals the bit driven and the veto slot reads recessive; the CRC bits among
them are then the ones computed (R23). -/
def State.loopPasses (s : State) (bits : List Bool) (slot : Bool) : Bool :=
  bits == frameBits Kind.join.cls s.own s.joinMsg.payload && slot

/-- The loop test completes (R23, R24, R41). -/
def State.loopTest (s : State) (bits : List Bool) (slot : Bool) : State :=
  if s.member.mstate = .start then
    (if s.loopPasses bits slot then s.enterListen else s.leave .unfit .loopTest)
  else s

/-- LOOP_TEST (R23). -/
def execLoopTest (bits : List Bool) (slot : Bool) (s : State) : Host.Outcome State Fault Refusal :=
  .next (finish s (s.loopTest bits slot))

/-! ## The attempt -/

/-- The pending frame an attempt sends: the lowest kind class, and the oldest of that class (R15). -/
def headFrame : List TxEntry → Option TxEntry
  | [] => none
  | e :: rest =>
    match headFrame rest with
    | none => some e
    | some x => if e.frame.kind.cls ≤ x.frame.kind.cls then some e else some x

/-- The node has an attempt of its own on the line. -/
def LineUse.own : LineUse → Bool
  | .sending _ _ _ => true
  | .quiet | .broken => false

/-- The conditions of R4 under which the node starts an attempt, the idle gap being the event itself. -/
def State.mayAttempt (s : State) (e : TxEntry) : Bool :=
  s.mayQueue && !s.link.driverCut && decide (s.link.rx.length < 4) && !s.link.line.own &&
    (e.frame.kind != .snapshot || s.link.rx.isEmpty)

/-- The attempt starts: the content is built, a POSTURE's clears the change mark, and the gap that led to it is the
node's footing on the line (R4, R14, R82, assumption 10). -/
def State.startAttempt (s : State) (e : TxEntry) : State :=
  { s with
    link := { s.link with
      line := .sending e.frame.kind e.frame.subject (s.payloadOf e.frame), footing := true }
    post := { s.post with changed := s.post.changed && e.frame.kind != .posture } }

/-- ATTEMPT_START (R4). -/
def execAttemptStart (s : State) : Host.Outcome State Fault Refusal :=
  .next <|
    match headFrame s.link.tx with
    | none => s
    | some e => if s.mayAttempt e then s.startAttempt e else s

/-- The entry of a kind and subject leaves the transmit list if it was withdrawn while its attempt was on the line (R16,
R112, R151). -/
def dropWithdrawn (tx : List TxEntry) (k : Kind) (subj : Option Node) : List TxEntry :=
  tx.filter fun e => !(e.isFor k subj && e.withdrawn)

/-- The attempt on the line is over, untaken and uncounted. -/
def State.attemptLost (s : State) (k : Kind) (subj : Option Node) : State :=
  { s with link := { s.link with line := .quiet, tx := dropWithdrawn s.link.tx k subj } }

/-- ARBITRATION_LOST (R5, assumption 11). -/
def execArbitrationLost (s : State) : Host.Outcome State Fault Refusal :=
  .next <| finish s <|
    match s.link.line with
    | .sending k subj _ => s.attemptLost k subj
    | .quiet | .broken => s

/-- The attempt count of the entry of a kind and subject is raised by 1 (R6, R10). -/
def countAttempt (tx : List TxEntry) (k : Kind) (subj : Option Node) : List TxEntry :=
  tx.map fun e => if e.isFor k subj then { e with attempts := e.attempts + 1 } else e

/-- A frame's attempts are used up (R11). -/
def attemptsUsedUp (tx : List TxEntry) : Bool := tx.any fun e => decide (8 ≤ e.attempts)

/-- A counted attempt ends: the count is raised, and the node isolates when it reaches 8; otherwise a withdrawn frame
leaves (R6, R10, R11, R16, assumption 8). `line` is the use of the line from then on. -/
def State.attemptCounted (s : State) (k : Kind) (subj : Option Node) (line : LineUse) : State :=
  if attemptsUsedUp (countAttempt s.link.tx k subj) then s.leave .isolated .linkRetries
  else
    { s with link := { s.link with line := line, tx := dropWithdrawn (countAttempt s.link.tx k subj) k subj } }

/-- TRANSMIT_ERROR (R6, assumption 11). -/
def execTransmitError (s : State) : Host.Outcome State Fault Refusal :=
  .next <| finish s <|
    match s.link.line with
    | .sending k subj _ => s.attemptCounted k subj .broken
    | .quiet | .broken => s

/-! ## The take -/

/-- A peer's frame is taken: its entry is HEARD, and a MEMBER's silence timer is reloaded (R34). -/
def Entry.hear (e : Entry) : Entry :=
  { e with heard := true, silence := if e.state = .member then some silenceMs else e.silence }

/-- A frame is taken: it enters the receive queue, a table frame raises the take count, the veto run count is 0, and a
peer is heard (R9, R34, R36, R37). -/
def State.take (s : State) (k : Kind) (sender : Node) (payload : List Byte) (own : Bool) : State :=
  let s1 : State :=
    { s with
      link := { s.link with
        rx := s.link.rx ++ [{ kind := k, sender := sender, payload := payload, noted := s.member.takeCount }]
        vetoRun := 0 }
      member := { s.member with takeCount := s.member.takeCount + if k.isTable then 1 else 0 } }
  if own = true ∨ sender = s.own then s1 else s1.setEntry sender (s1.entry sender).hear

/-- What the take of an own frame starts: the JOIN repeat timer, or the posture timers (R25, R82). A POSTURE taken while
the spacing timer still runs starts both posture timers anew (DESIGN CHOICE, assumption 49). -/
def State.ownTaken (s : State) (k : Kind) : State :=
  match k with
  | .join =>
    if s.member.mstate = .joinWait then { s with member := { s.member with joinTimer := some joinRepeatMs } } else s
  | .posture =>
    if s.member.mstate = .member then
      { s with post := { s.post with period := some posturePeriodMs, spacing := some postureSpacingMs } }
    else s
  | _ => s

/-- The sender reads the veto slot of its own frame (R10). -/
def State.ownSlot (s : State) (k : Kind) (subj : Option Node) (payload : List Byte) (vetoed : Bool) : State :=
  if vetoed then s.attemptCounted k subj .quiet
  else
    let s1 : State :=
      { s with link := { s.link with line := .quiet, tx := s.link.tx.filter fun e => !e.isFor k subj } }
    (s1.take k s.own payload true).ownTaken k

/-- A complete frame is received well (R7). -/
def receivedWell (f : LineFrame) : Bool :=
  frameCheckOk f && decide (f.payload.length ≤ 48) && decide (f.cls.val ≤ 9)

/-- The node vetoes a complete frame (R8): in LISTEN it vetoes nothing. -/
def State.vetoes (s : State) (f : LineFrame) : Bool :=
  s.mayQueue && (!receivedWell f || decide (4 ≤ s.link.rx.length))

/-- The node vetoes: the veto run count is raised, and at 16 the node isolates (R8, R12). -/
def State.vetoFrame (s : State) : State :=
  if 16 ≤ s.link.vetoRun + 1 then s.leave .isolated .vetoGuard
  else { s with link := { s.link with vetoRun := s.link.vetoRun + 1 } }

/-- The node takes frames in its state (R19). -/
def State.takesFrames (s : State) : Bool := s.mayQueue || s.member.mstate == .listen

/-- A receiver reaches the veto slot of a frame (R7 to R9, R19). -/
def State.receiveSlot (s : State) (f : LineFrame) (vetoed : Bool) : State :=
  if !(s.takesFrames && s.link.footing && f.closing) then s
  else if s.vetoes f then s.vetoFrame
  else
    match Kind.ofCls f.cls.val with
    | none => s
    | some k =>
      if receivedWell f && decide (s.link.rx.length < 4) && !vetoed then s.take k f.sender f.payload false else s

/-- The veto slot of the frame on the line (R9): the node's own, one it broke off and neither vetoes nor takes (R6,
assumption 9), or another node's. -/
def State.slot (s : State) (f : LineFrame) (vetoed : Bool) : State :=
  match s.link.line with
  | .sending k subj payload => s.ownSlot k subj payload vetoed
  | .broken => { s with link := { s.link with line := .quiet } }
  | .quiet => s.receiveSlot f vetoed

/-- VETO_SLOT (R9). -/
def execVetoSlot (f : LineFrame) (vetoed : Bool) (s : State) : Host.Outcome State Fault Refusal :=
  .next (finish s (s.slot f vetoed))

/-! ## Guard and gap -/

/-- TRANSMIT_GUARD (R13, R41): a period in which the driver is enabled needs JOIN-WAIT or MEMBER (assumption 32). -/
def execTransmitGuard (s : State) : Host.Outcome State Fault Refusal :=
  .next <| finish s <|
    if s.mayQueue then
      let s1 := s.leave .unfit .transmitGuard
      { s1 with link := { s1.link with driverCut := true } }
    else s

/-- IDLE_GAP (R19): the node gains its footing, and the rest of a broken frame is over. -/
def execIdleGap (s : State) : Host.Outcome State Fault Refusal :=
  .next <|
    if s.takesFrames then
      { s with link := { s.link with
        footing := true, line := match s.link.line with | .broken => .quiet | x => x } }
    else s

end Sys2Proof.Machine
end

