-- ==== Sys2Proof/Machine/Membership.lean ====
section
/-! DEFINITION. The membership unit's timers (R24, R25, R34, R40). A timer's command in a state in which the timer does
not run has no effect (assumption 3). -/

namespace Sys2Proof.Machine

/-- LISTEN_TIMER (R24): the node enters JOIN-WAIT. -/
def execListenTimer (s : State) : Host.Outcome State Fault Refusal :=
  .next <| finish s <|
    match s.member.listenTimer with
    | some _ => if s.member.mstate = .listen then s.enterJoinWait else s
    | none => s

/-- JOIN_REPEAT_TIMER (R25): the timer has run out, and a node still in JOIN-WAIT queues its JOIN again. -/
def execJoinRepeatTimer (s : State) : Host.Outcome State Fault Refusal :=
  .next <| finish s <|
    match s.member.joinTimer with
    | some _ =>
      let s1 : State := { s with member := { s.member with joinTimer := none } }
      if s.member.mstate = .joinWait then s1.queue .join else s1
    | none => s

/-- ISOLATION_REST_TIMER (R40): the node enters LISTEN. -/
def execIsolationRestTimer (s : State) : Host.Outcome State Fault Refusal :=
  .next <| finish s <|
    match s.member.restTimer with
    | some _ => if s.member.mstate = .isolated then s.enterListen else s
    | none => s

/-- A peer's silence timer runs out (R34). -/
def State.fallSilent (s : State) (n : Node) : State :=
  if s.isMember then
    (s.setEntry n { s.entry n with heard := false, silence := none }).queue (.evict n)
  else if s.isProvisional then s.setEntry n ((s.entry n).leave .unknown none)
  else s

/-- SILENCE_TIMER (R34). -/
def execSilenceTimer (n : Node) (s : State) : Host.Outcome State Fault Refusal :=
  .next <| finish s <|
    match (s.entry n).silence with
    | some _ => s.fallSilent n
    | none => s

end Sys2Proof.Machine
end

