-- ==== Sys2Proof/Machine/Port.lean ====
section
/-! DEFINITION. The service port's events (R192 to R196): a line handed on, the end of an answer, the relay timer. -/

namespace Sys2Proof.Machine

/-! ## Local answers -/

/-- The own conditions that are true, by position (R77, R194). -/
def State.trueOwn (s : State) : List Cond := (condsOf (some s.straps.role)).filter s.cond

/-- The channels of the role with their states (R194). -/
def State.chanStates (s : State) : List (Chan × ChanState) :=
  s.straps.role.chans.map fun c => (c, (s.chans.get c).state)

/-- The index of the IN-PROGRESS record (R194). -/
def State.openIndex (s : State) : Option Nat :=
  s.log.slots.findIdx? fun x => x.data.outcome == .inProgress

/-- The STATUS answer (R194). -/
def State.statusLines (s : State) : List AnswerLine :=
  [.node s.own s.straps.role s.straps.roleSide.side s.straps.fit s.member.bodyFit, .state s.member.mstate s.member.cause
  , .take s.member.takeCount, .time s.log.tag, .cond s.trueOwn, .run s.summary (some s.runState), .halt s.table.halt
  , .chan s.chanStates, .log s.log.slots.length s.openIndex, .ok]

/-- The ENTRY line of a node number (R194). -/
def State.entryLine (s : State) (n : Node) : AnswerLine :=
  let e := s.entry n
  .entry n e.state e.role e.heard e.agree e.fresh (e.last.map fun x => trueConds (e.role.map RoleSide.role) x.conds)

/-- The ROSTER answer (R194). -/
def State.rosterLines (s : State) : List AnswerLine := allNodes.map s.entryLine ++ [.ok]

/-- The TABLE answer (R194). -/
def State.tableLines (s : State) : List AnswerLine :=
  [.halt s.table.halt, .supply (supplyInUse s.table.claims)] ++ s.table.claims.map AnswerLine.claim ++ [.ok]

/-- The LOG answer (R194). -/
def State.logLines (s : State) : List AnswerLine :=
  (s.log.slots.zipIdx.map fun x => AnswerLine.record x.2 x.1.data) ++ [.ok]

/-! ## Accepted lines -/

/-- The port sends an answer (R193). -/
def State.answer (s : State) (l : List AnswerLine) : State := { s with port := { s.port with answer := .sending l } }

/-- A PEER request is dealt with (R196). -/
def State.peerRequest (s : State) (n : Node) (req : ProbeReq) : State :=
  if !s.isMember || (s.entry n).state != .member then s.answer [.notMember]
  else if n = s.own then s.answer (contentLines (some s.straps.role) req (s.replyContent req))
  else
    State.queue
      { s with port := { s.port with
          answer := .relaying, relay := some { target := n, req := req }, relayTimer := some relayMs } }
      (.probe n req)

/-- A line that is not blank is handed on to a port that is not answering (R193). -/
def State.accept (s : State) (r : LineRead) : State :=
  match r with
  | .blank => s
  | .status => s.answer s.statusLines
  | .roster => s.answer s.rosterLines
  | .table => s.answer s.tableLines
  | .log => s.answer s.logLines
  | .peerStatus n => s.peerRequest n .status
  | .peerLog n i => s.peerRequest n (.log i)
  | .wrong => s.answer [.error]

/-- A line is handed on (R192, R193): a blank one is dropped; while the port is answering it owes BUSY. -/
def State.handOn (s : State) (r : LineRead) : State :=
  if r = .blank then s
  else if s.port.answer = .idle then s.accept r
  else { s with port := { s.port with busyOwed := true } }

/-- The characters of a line and the carriage return that ends it (R192): the buffer is cleared for the next line.
Whichever of the port's rows brings them, the line acts as it reads (assumption 33). -/
def State.portLine (s : State) (l : List RxChar) : State :=
  State.handOn { s with port := { s.port with buf := LineBuf.empty } } (s.port.buf.gather l).read

/-- STATUS (R194). -/
def execStatus (l : List RxChar) (s : State) : Host.Outcome State Fault Refusal := .next (s.portLine l)

/-- ROSTER (R194). -/
def execRoster (l : List RxChar) (s : State) : Host.Outcome State Fault Refusal := .next (s.portLine l)

/-- TABLE (R194). -/
def execTable (l : List RxChar) (s : State) : Host.Outcome State Fault Refusal := .next (s.portLine l)

/-- LOG (R194). -/
def execLog (l : List RxChar) (s : State) : Host.Outcome State Fault Refusal := .next (s.portLine l)

/-- PEER_STATUS (R196). -/
def execPeerStatus (l : List RxChar) (s : State) : Host.Outcome State Fault Refusal := .next (s.portLine l)

/-- PEER_LOG (R196). -/
def execPeerLog (l : List RxChar) (s : State) : Host.Outcome State Fault Refusal := .next (s.portLine l)

/-- ERROR (R193). -/
def execError (l : List RxChar) (s : State) : Host.Outcome State Fault Refusal := .next (s.portLine l)

/-! ## The end of an answer -/

/-- The last character of what is being sent has gone: an owed BUSY line follows an answer, and after it, or with none
owed, the port is not answering (R193, assumption 15). -/
def PortUnit.sent (p : PortUnit) : PortUnit :=
  match p.answer with
  | .sending _ => { p with answer := if p.busyOwed then .busyLine else .idle }
  | .busyLine => { p with answer := .idle, busyOwed := false }
  | .idle | .relaying => p

/-- ANSWER_SENT (R193). -/
def execAnswerSent (s : State) : Host.Outcome State Fault Refusal := .next { s with port := s.port.sent }

/-- RELAY_TIMER (R196): the answer is NO-REPLY, the slot empties, and a PROBE with no attempt on the line leaves. -/
def execRelayTimer (s : State) : Host.Outcome State Fault Refusal :=
  .next <|
    match s.port.relayTimer, s.port.relay with
    | some _, some _ => State.dropPending { s with port := s.port.endRelay [.noReply] } .probe none
    | _, _ => s

end Sys2Proof.Machine
end

