-- ==== Sys2Proof/Machine/Postures.lean ====
section
/-! DEFINITION. The posture unit's timers and the time tag (R82, R186). -/

namespace Sys2Proof.Machine

/-- The posture period begins again (assumption 21). -/
def State.restartPeriod (s : State) : State := { s with post := { s.post with period := some posturePeriodMs } }

/-- POSTURE_PERIOD_TIMER (R82). -/
def execPosturePeriodTimer (s : State) : Host.Outcome State Fault Refusal :=
  .next <|
    match s.post.period, s.member.mstate with
    | some _, .member => s.restartPeriod.queue .posture
    | _, _ => s

/-- POSTURE_SPACING_TIMER (R82). -/
def execPostureSpacingTimer (s : State) : Host.Outcome State Fault Refusal :=
  .next <|
    match s.post.spacing with
    | some _ =>
      let s1 : State := { s with post := { s.post with spacing := none } }
      if s.post.changed then s1.queue .posture else s1
    | none => s

/-- TIME_TAG_TICK (R186). -/
def execTimeTagTick (s : State) : Host.Outcome State Fault Refusal :=
  .next { s with log := { s.log with tag := s.log.tag + 1 } }

end Sys2Proof.Machine
end

