-- ==== Sys2Proof/Machine/Steps.lean ====
section
/-! DEFINITION. The timers of the run engine, the step engine and the channels (R106, R116, R128, R129, R131, R133, R134,
R141) and the drive-time end (R90). A timer's command in a state in which the timer does not run has no effect
(assumption 3). -/

namespace Sys2Proof.Machine

/-- CLAIM_WAIT_TIMER (R106). -/
def execClaimWaitTimer (s : State) : Host.Outcome State Fault Refusal :=
  .next <| finish s <|
    match s.runs.claimWait, s.runs.run with
    | some _, some r => if r.phase = .claiming then s.enterEnding .lapsed none else s
    | _, _ => s

/-- PAUSE_TIMER (R116). -/
def execPauseTimer (s : State) : Host.Outcome State Fault Refusal :=
  .next <| finish s <|
    match s.steps.pause, s.runs.run with
    | some _, some r => if r.phase = .paused then s.enterEnding .lapsed none else s
    | _, _ => s

/-- SETTLE_TIMER (R141). -/
def execSettleTimer (c : Chan) (s : State) : Host.Outcome State Fault Refusal :=
  .next (finish s { s with chans := s.chans.set c (s.chans.get c).settled })

/-- The step being walked while the run is RUNNING, with its run and its catalogue step. -/
def State.walked (s : State) : Option (Run × CurStep × StepDef) :=
  match s.runs.run, s.steps.cur with
  | some r, some c =>
    if r.phase = .running then
      match s.stepOf r.top with
      | some d => some (r, c, d)
      | none => none
    else none
  | _, _ => none

/-- The lead is served (R96, R129). -/
def State.serveLead (s : State) (r : Run) (c : CurStep) (d : StepDef) : State :=
  (s.setRun { r with leadServed := true }).enterOpening c d

/-- LEAD_TIMER (R129). -/
def execLeadTimer (s : State) : Host.Outcome State Fault Refusal :=
  .next <| finish s <|
    match s.steps.lead, s.walked with
    | some _, some (r, c, d) => if c.state = .leading then s.serveLead r c d else s
    | _, _ => s

/-- The recovery window has run out (R127, R128, R134). -/
def State.recoveryOut (s : State) (c : CurStep) (d : StepDef) : State :=
  match c.state with
  | .arming => s.failStep c d .interlockLost true
  | .stalled => s.failStep c d (if s.interlock d then .noPressure else .interlockLost) true
  | .leading | .opening | .priming | .driving | .paused | .closing | .ended => s

/-- RECOVERY_TIMER (R128). -/
def execRecoveryTimer (s : State) : Host.Outcome State Fault Refusal :=
  .next <| finish s <|
    match s.steps.recovery, s.walked with
    | some _, some (_, c, d) => s.recoveryOut c d
    | _, _ => s

/-- PRIMING_TIMER (R131). -/
def execPrimingTimer (s : State) : Host.Outcome State Fault Refusal :=
  .next <| finish s <|
    match s.steps.priming, s.walked with
    | some _, some (_, c, d) => if c.state = .priming then s.failStep c d .noPressure true else s
    | _, _ => s

/-- Drive time of the step counts: it is DRIVING and drives its channel (R132, R133). -/
def State.driveCounts (s : State) (c : CurStep) (d : StepDef) : Bool :=
  c.state == .driving && (s.chans.get d.chan).state == .driving d.dir

/-- Drive time is set. -/
def State.setDriveTime (s : State) (ms : Nat) : State := s.setSteps { s.steps with driveTime := ms }

/-- DRIVE_LIMIT (R133): drive time reaches the limit. -/
def execDriveLimit (s : State) : Host.Outcome State Fault Refusal :=
  .next <| finish s <|
    match s.walked with
    | some (_, c, d) =>
      match c.limit with
      | some ms => if s.driveCounts c d then (s.setDriveTime ms).failStep c d .limit true else s
      | none => s
    | none => s

/-- The drive time a step's end condition names, if it names one (R90). -/
def StepDef.driveTimeEnd (d : StepDef) : Option Nat :=
  d.ends.findSome? fun e =>
    match e with
    | .driveTime ms => some ms
    | .cond _ _ | .height _ => none

/-- DRIVE_TIME_END (R90): drive time reaches the end condition, and the step reaches its end (R135). -/
def execDriveTimeEnd (s : State) : Host.Outcome State Fault Refusal :=
  .next <| finish s <|
    match s.walked with
    | some (_, c, d) =>
      match d.driveTimeEnd with
      | some ms => if s.driveCounts c d then (s.setDriveTime ms).stepDone c d else s
      | none => s
    | none => s

/-- The drive time after one more millisecond: it stands just below the limit until the limit's own command is taken
(R133). -/
def CurStep.driven (c : CurStep) (ms : Nat) : Nat :=
  match c.limit with
  | some x => if ms + 1 < x then ms + 1 else ms
  | none => ms + 1

/-- A millisecond of drive time passes, while the step is DRIVING and drives its channel (R132, R133, assumption 1). -/
def State.countDrive (s : State) : State :=
  match s.walked with
  | some (_, c, d) => if s.driveCounts c d then s.setDriveTime (c.driven s.steps.driveTime) else s
  | none => s

end Sys2Proof.Machine
end

