-- ==== Sys2Proof/Machine/Supply.lean ====
section
/-! DEFINITION. The pump service's timers on the LIFT node (R166, R167, R169). A timer's command in a state in which the
timer does not run has no effect (assumption 3). -/

namespace Sys2Proof.Machine

/-- IDLE_TIMER (R166). -/
def execIdleTimer (s : State) : Host.Outcome State Fault Refusal :=
  .next <|
    match s.pump.idle with
    | some _ => { s with pump := { s.pump with idle := none, runTime := 0 } }
    | none => s

/-- A rest starts: the output turns off without starting the idle timer (R167). -/
def State.startRest (s : State) : State :=
  { s with pump := { s.pump with on := false, runTime := s.dutyMs, idle := none, rest := some s.restMs } }

/-- DUTY_LIMIT (R167): the running time reaches the pump duty limit while the output is on. -/
def execDutyLimit (s : State) : Host.Outcome State Fault Refusal :=
  .next (finish s (if s.pump.on then s.startRest else s))

/-- REST_TIMER (R167). -/
def execRestTimer (s : State) : Host.Outcome State Fault Refusal :=
  .next <| finish s <|
    match s.pump.rest with
    | some _ => { s with pump := { s.pump with rest := none, runTime := 0 } }
    | none => s

/-- PLAUSIBILITY_TIMER (R169). -/
def execPlausibilityTimer (s : State) : Host.Outcome State Fault Refusal :=
  .next <| finish s <|
    match s.pump.plaus with
    | some _ => { s with pump := { s.pump with plaus := none, faulty := true } }
    | none => s

/-- The running time after one more millisecond with the output on: it stands just below the duty limit until the
limit's own command is taken (R166, R167). -/
def State.pumpCounted (s : State) : Nat :=
  if s.pump.runTime + 1 < s.dutyMs then s.pump.runTime + 1 else s.pump.runTime

/-- A millisecond of the pump's running time passes while its output is on (R166, R167, assumption 1). -/
def State.countPump (s : State) : State :=
  if s.pump.on then { s with pump := { s.pump with runTime := s.pumpCounted } } else s

end Sys2Proof.Machine
end

