-- ==== Sys2Proof/Machine/Dispatch.lean ====
section
/-! DEFINITION. The meaning of each command: one arm per constructor of `Instr`. -/

namespace Sys2Proof.Machine

/-- The effect of a command on everything but the queue of commands. -/
def exec (i : Instr) (s : State) : Host.Outcome State Fault Refusal :=
  match i with
  | .powerOnReset straps => Sys2Proof.Machine.execPowerOnReset straps s
  | .externalReset straps => Sys2Proof.Machine.execExternalReset straps s
  | .loopTest bits slot => Sys2Proof.Machine.execLoopTest bits slot s
  | .attemptStart => Sys2Proof.Machine.execAttemptStart s
  | .arbitrationLost => Sys2Proof.Machine.execArbitrationLost s
  | .transmitError => Sys2Proof.Machine.execTransmitError s
  | .vetoSlot rx vetoed => Sys2Proof.Machine.execVetoSlot rx vetoed s
  | .transmitGuard => Sys2Proof.Machine.execTransmitGuard s
  | .halt => Sys2Proof.Machine.execHalt s
  | .clear => Sys2Proof.Machine.execClear s
  | .evict => Sys2Proof.Machine.execEvict s
  | .yield => Sys2Proof.Machine.execYield s
  | .claim => Sys2Proof.Machine.execClaim s
  | .snapshot => Sys2Proof.Machine.execSnapshot s
  | .join => Sys2Proof.Machine.execJoin s
  | .posture => Sys2Proof.Machine.execPosture s
  | .probe => Sys2Proof.Machine.execProbe s
  | .reply => Sys2Proof.Machine.execReply s
  | .listenTimer => Sys2Proof.Machine.execListenTimer s
  | .joinRepeatTimer => Sys2Proof.Machine.execJoinRepeatTimer s
  | .isolationRestTimer => Sys2Proof.Machine.execIsolationRestTimer s
  | .silenceTimer n => Sys2Proof.Machine.execSilenceTimer n s
  | .rawInputChange inp closed => Sys2Proof.Machine.execRawInputChange inp closed s
  | .inputFilterExpiry inp => Sys2Proof.Machine.execInputFilterExpiry inp s
  | .strokePulse => Sys2Proof.Machine.execStrokePulse s
  | .roadSpeedPulse => Sys2Proof.Machine.execRoadSpeedPulse s
  | .standstillTimer => Sys2Proof.Machine.execStandstillTimer s
  | .requestWindowTimer => Sys2Proof.Machine.execRequestWindowTimer s
  | .channelDriverFault o k => Sys2Proof.Machine.execChannelDriverFault o k s
  | .lampFault o k => Sys2Proof.Machine.execLampFault o k s
  | .outputFaultLatch o k => Sys2Proof.Machine.execOutputFaultLatch o k s
  | .claimWaitTimer => Sys2Proof.Machine.execClaimWaitTimer s
  | .pauseTimer => Sys2Proof.Machine.execPauseTimer s
  | .settleTimer c => Sys2Proof.Machine.execSettleTimer c s
  | .leadTimer => Sys2Proof.Machine.execLeadTimer s
  | .recoveryTimer => Sys2Proof.Machine.execRecoveryTimer s
  | .primingTimer => Sys2Proof.Machine.execPrimingTimer s
  | .driveLimit => Sys2Proof.Machine.execDriveLimit s
  | .driveTimeEnd => Sys2Proof.Machine.execDriveTimeEnd s
  | .posturePeriodTimer => Sys2Proof.Machine.execPosturePeriodTimer s
  | .postureSpacingTimer => Sys2Proof.Machine.execPostureSpacingTimer s
  | .idleTimer => Sys2Proof.Machine.execIdleTimer s
  | .dutyLimit => Sys2Proof.Machine.execDutyLimit s
  | .restTimer => Sys2Proof.Machine.execRestTimer s
  | .plausibilityTimer => Sys2Proof.Machine.execPlausibilityTimer s
  | .groupTimer g openLoad overCurrent => Sys2Proof.Machine.execGroupTimer g openLoad overCurrent s
  | .hazardFlashTimer => Sys2Proof.Machine.execHazardFlashTimer s
  | .testSlotTimer openLoad overCurrent => Sys2Proof.Machine.execTestSlotTimer openLoad overCurrent s
  | .cabFaultFlashTimer => Sys2Proof.Machine.execCabFaultFlashTimer s
  | .nodeOkFlashTimer => Sys2Proof.Machine.execNodeOkFlashTimer s
  | .timeTagTick => Sys2Proof.Machine.execTimeTagTick s
  | .status line => Sys2Proof.Machine.execStatus line s
  | .roster line => Sys2Proof.Machine.execRoster line s
  | .table line => Sys2Proof.Machine.execTable line s
  | .log line => Sys2Proof.Machine.execLog line s
  | .peerStatus line => Sys2Proof.Machine.execPeerStatus line s
  | .peerLog line => Sys2Proof.Machine.execPeerLog line s
  | .error line => Sys2Proof.Machine.execError line s
  | .answerSent => Sys2Proof.Machine.execAnswerSent s
  | .relayTimer => Sys2Proof.Machine.execRelayTimer s
  | .idleGap => Sys2Proof.Machine.execIdleGap s

end Sys2Proof.Machine
end

