-- ==== Sys2Proof/Machine/Step.lean ====
section
/-! DEFINITION. One step: the command at the front of the queue, or a millisecond where none waits (assumption 1). -/

namespace Sys2Proof.Machine

/-- The queue is replaced. -/
def State.withPending (s : State) (q : List Instr) : State := { s with pending := q }

/-- What a step does on an empty queue: the two counts of milliseconds that no row of the table advances go on
(DESIGN CHOICE, assumption 1). -/
def State.tick (s : State) : State := finish s s.countDrive.countPump

/-- One step (assumptions 1 and 6). -/
def step (s : State) : Host.Outcome State Fault Refusal :=
  match s.pending with
  | [] => .next s.tick
  | c :: rest => exec c (s.withPending rest)

/-- The state with the command that a word spells put at the front of its queue; the table gives no row any bits, so no
word spells one and the state is unchanged. -/
def State.withFetchWord (s : State) (nbits w : Nat) : State :=
  match decodeTableWord nbits w with
  | some c => s.withPending (c :: s.pending)
  | none => s

end Sys2Proof.Machine
end

