-- ==== Sys2Proof/Machine/PortText.lean ====
section
/-! DEFINITION. The characters the service port sends (R193, R194, R196): each line begins with a name, followed by its
values parted by spaces, and ends with carriage return and line feed. The words for names and for absent values that the
spec does not write out are assumption 16. -/

namespace Sys2Proof.Machine

/-! ## Words -/

/-- An absent value (R194). -/
def hyphen : String := "-"

/-- A value or a hyphen. -/
def orHyphen {α : Type} (f : α → String) : Option α → String
  | some x => f x
  | none => hyphen

/-- A value or the word NONE. -/
def orNone {α : Type} (f : α → String) : Option α → String
  | some x => f x
  | none => "NONE"

/-- R21 -/
def Role.word : Role → String
  | .cab => "CAB"
  | .lift => "LIFT"
  | .hatch => "HATCH"
  | .beacon => "BEACON"

/-- R21 -/
def Side.word : Side → String
  | .kerb => "KERB"
  | .road => "ROAD"

/-- R22 (chapter 2, state table) -/
def MState.word : MState → String
  | .start => "START"
  | .listen => "LISTEN"
  | .joinWait => "JOIN-WAIT"
  | .member => "MEMBER"
  | .isolated => "ISOLATED"
  | .barred => "BARRED"
  | .unfit => "UNFIT"

/-- R26 -/
def EState.word : EState → String
  | .unknown => "UNKNOWN"
  | .joining => "JOINING"
  | .member => "MEMBER"
  | .absent => "ABSENT"
  | .barred => "BARRED"

/-- R195 -/
def Cause.word : Cause → String
  | .limit => "LIMIT"
  | .interlockLost => "INTERLOCK-LOST"
  | .noPressure => "NO-PRESSURE"
  | .channelRefused => "CHANNEL-REFUSED"
  | .driverFault => "DRIVER-FAULT"
  | .nestRefused => "NEST-REFUSED"
  | .nestLimit => "NEST-LIMIT"
  | .nestedFailed => "NESTED-FAILED"
  | .claimLost => "CLAIM-LOST"
  | .latched => "LATCHED"
  | .notMember => "NOT-MEMBER"
  | .hasRecord => "HAS-RECORD"
  | .badClaim => "BAD-CLAIM"
  | .panelConflict => "PANEL-CONFLICT"
  | .busy => "BUSY"
  | .panelStop => "PANEL-STOP"
  | .pendantStop => "PENDANT-STOP"
  | .linkRetries => "LINK-RETRIES"
  | .vetoGuard => "VETO-GUARD"
  | .evicted => "EVICTED"
  | .diverged => "DIVERGED"
  | .fitting => "FITTING"
  | .roleLimit => "ROLE-LIMIT"
  | .duplicate => "DUPLICATE"
  | .loopTest => "LOOP-TEST"
  | .transmitGuard => "TRANSMIT-GUARD"

/-- R195 -/
def RunOutcome.word : RunOutcome → String
  | .inProgress => "IN-PROGRESS"
  | .done => "DONE"
  | .skipped => "SKIPPED"
  | .failedSkipped => "FAILED-SKIPPED"
  | .failed => "FAILED"
  | .complete => "COMPLETE"
  | .stopped => "STOPPED"
  | .lapsed => "LAPSED"
  | .refused => "REFUSED"
  | .switched => "SWITCHED"
  | .halted => "HALTED"
  | .isolated => "ISOLATED"
  | .resync => "RESYNC"
  | .nested => "NESTED"
  | .barred => "BARRED"
  | .unfit => "UNFIT"
  | .cut => "CUT"

/-- R86 -/
def Manoeuvre.word : Manoeuvre → String
  | .unfold => "UNFOLD"
  | .lower => "LOWER"
  | .raise => "RAISE"
  | .tiltDown => "TILT-DOWN"
  | .tiltUp => "TILT-UP"
  | .fold => "FOLD"
  | .level => "LEVEL"
  | .openHatch => "OPEN"
  | .closeHatch => "CLOSE"
  | .ease => "EASE"

/-- R77 -/
def Cond.word : Cond → String
  | .runActive => "RUN-ACTIVE"
  | .fault => "FAULT"
  | .stopPressed => "STOP-PRESSED"
  | .brakeSet => "BRAKE-SET"
  | .standstill => "STANDSTILL"
  | .bodyOn => "BODY-ON"
  | .folded => "FOLDED"
  | .unfolded => "UNFOLDED"
  | .atFloor => "AT-FLOOR"
  | .atBed => "AT-BED"
  | .level => "LEVEL"
  | .pressureUp => "PRESSURE-UP"
  | .pumpRunning => "PUMP-RUNNING"
  | .pumpResting => "PUMP-RESTING"
  | .pumpDemand => "PUMP-DEMAND"
  | .latched => "LATCHED"
  | .openFull => "OPEN-FULL"
  | .edgeClear => "EDGE-CLEAR"
  | .rearLit => "REAR-LIT"
  | .kerbLit => "KERB-LIT"
  | .roadLit => "ROAD-LIT"
  | .flagsLit => "FLAGS-LIT"
  | .rearFailed => "REAR-FAILED"
  | .kerbFailed => "KERB-FAILED"
  | .roadFailed => "ROAD-FAILED"
  | .flagsFailed => "FLAGS-FAILED"
  | .hazard => "HAZARD"

/-- Chapter 7, section 7.11 -/
def StepState.word : StepState → String
  | .arming => "ARMING"
  | .leading => "LEADING"
  | .opening => "OPENING"
  | .priming => "PRIMING"
  | .driving => "DRIVING"
  | .stalled => "STALLED"
  | .paused => "PAUSED"
  | .closing => "CLOSING"
  | .ended => "ENDED"

/-- R100 -/
def RunState.word : RunState → String
  | .idle => "IDLE"
  | .claiming => "CLAIMING"
  | .running => "RUNNING"
  | .paused => "PAUSED"
  | .ending => "ENDING"

/-- R88 -/
def Dir.word : Dir → String
  | .up => "UP"
  | .down => "DOWN"
  | .inward => "IN"
  | .outward => "OUT"
  | .openDir => "OPEN"
  | .closeDir => "CLOSE"
  | .release => "RELEASE"

/-- R140. The direction follows DRIVING alone; a channel in any other state shows no word for it (DESIGN CHOICE,
assumption 43). -/
def ChanState.words : ChanState → List String
  | .closed => ["CLOSED"]
  | .opening => ["OPENING"]
  | .opened => ["OPEN"]
  | .driving d => ["DRIVING", d.word]
  | .holding => ["HOLDING"]
  | .relieving => ["RELIEVING"]
  | .resting => ["RESTING"]
  | .faulted => ["FAULTED"]

/-- R88 -/
def chanWord : Chan → String
  | .lift => "LIFT"
  | .tilt => "TILT"
  | .fold => "FOLD"
  | .ram => "RAM"
  | .latch => "LATCH"

/-- R187 -/
def RecKind.word : RecKind → String
  | .step => "STEP"
  | .claimPhase => "CLAIM-PHASE"
  | .request => "REQUEST"
  | .restart => "RESTART"

/-- R45 -/
def ClaimState.word : ClaimState → String
  | .waiting => "WAITING"
  | .granted => "GRANTED"

/-- The resources of a set, joined by plus signs as the worked examples write them (R43). -/
def ResSet.word (r : ResSet) : String :=
  String.intercalate "+"
    ((if r.pump then ["PUMP"] else []) ++ (if r.rear then ["ZONE-REAR"] else []) ++
      (if r.kerb then ["ZONE-KERB"] else []) ++ if r.road then ["ZONE-ROAD"] else [])

/-- The mark of a roster entry, by its two names (R26, R79). -/
def markWord (b : Bool) (yes no : String) : String := if b then yes else no

/-! ## Lines -/

/-- A decimal number. -/
def num (n : Nat) : String := toString n

/-- The values of a log record, absent fields as hyphens (R194). -/
def LogRec.words (r : LogRec) : List String :=
  [r.kind.word, num r.run.toNat, num r.depth, orHyphen Manoeuvre.word r.man, orHyphen num r.idx, r.outcome.word
  , orHyphen Cause.word r.cause, num r.retries, num r.startTag.toNat, orHyphen (fun t : BitVec 16 => num t.toNat) r.endTag
  , orHyphen num r.height]

/-- The words of a RUN line: stack depth, top manoeuvre, step index, step state, run state (R194). -/
def Summary.words (x : Summary) : List String :=
  [num x.depth, orNone Manoeuvre.word x.man, num x.idx, orNone StepState.word x.step]

/-- The words of a line: its name and its values (R194, R196). An ENTRY line shows its node number first (DESIGN CHOICE,
assumption 44); it ends in NONE where last conditions are absent, and where they are present with none true it shows
nothing after the marks (DESIGN CHOICE, assumption 46). -/
def AnswerLine.words : AnswerLine → List String
  | .node n role side fit bodyFit =>
    ["NODE", num n.val, role.word, orNone Side.word side, num fit.val, orNone (fun f : Fin 8 => num f.val) bodyFit]
  | .state m cause => ["STATE", m.word, orNone Cause.word cause]
  | .take n => ["TAKE", num n.toNat]
  | .time n => ["TIME", num n.toNat]
  | .cond l => "COND" :: l.map Cond.word
  | .run sum rs => ("RUN" :: sum.words) ++ (match rs with | some x => [x.word] | Option.none => [])
  | .halt h =>
    ["HALT", if h.latch.isSome then "LATCHED" else "CLEAR", orNone (fun n : Node => num n.val) h.latch, num h.count]
  | .chan l => "CHAN" :: l.flatMap fun x => chanWord x.1 :: x.2.words
  | .log held inProgress => ["LOG", num held, orNone num inProgress]
  | .entry n st role heard agree fresh conds =>
    ["ENTRY", num n.val, st.word, orNone (fun r : RoleSide => r.role.word) role
    , orNone Side.word (role.bind RoleSide.side), markWord heard "HEARD" "SILENT", markWord agree "AGREE" "DISAGREE"
    , markWord fresh "FRESH" "STALE"] ++
      match conds with
      | some l => l.map Cond.word
      | Option.none => ["NONE"]
  | .supply units => ["SUPPLY", num units]
  | .claim r => ["REC", num r.claimant.val, r.set.word, num r.units, r.man.word, r.state.word]
  | .record i r => "REC" :: num i :: r.words
  | .ok => ["OK"]
  | .error => ["ERROR"]
  | .noReply => ["NO-REPLY"]
  | .notMember => ["NOT-MEMBER"]
  | .none => ["NONE"]

/-- A line of words as it is sent, ended by carriage return and line feed (R193). -/
def lineText (words : List String) : String :=
  String.intercalate " " words ++ String.ofList [Char.ofNat 13, Char.ofNat 10]

/-- The text the port is sending (R193): none while it is not answering or waits for a relay. -/
def State.portText (s : State) : List String :=
  match s.port.answer with
  | .idle | .relaying => []
  | .sending l => l.map fun x => lineText x.words
  | .busyLine => [lineText ["BUSY"]]

end Sys2Proof.Machine
end

