-- ==== Sys2Proof/Safety.lean ====
section
/-! DEFINITION. What counts as a safe node: the laws the spec states of every state (R9, R12, R45, R56, R98, R147, R150,
R155, R163, R190), in the terms the obligations use, and the outcome no command may have. -/

namespace Sys2Proof.Machine

/-- A step that goes on: neither a fault nor a refusal. -/
def Outcome.goesOn : Host.Outcome State Fault Refusal → Bool
  | .next _ => true
  | .fault _ | .refused _ => false

/-! ## The claim table -/

/-- The laws of a claim list (R45, R56): one record per claimant, no exclusive resource named by two GRANTED records, and
at most 12 units granted. -/
def claimLaws (l : List ClaimRec) : Bool :=
  onePerClaimant l && grantsDisjoint l && decide (supplyInUse l ≤ 12)

/-- The laws of a halt state (R150): count 0 while clear, 1 to 15 while latched. -/
def HaltState.laws (h : HaltState) : Bool :=
  match h.latch with
  | none => h.count == 0
  | some _ => decide (1 ≤ h.count) && decide (h.count ≤ 15)

/-- While the latch is set the claim list and the run stack are empty, and only a MEMBER holds a run (R155, R102). -/
def State.haltLaws (s : State) : Bool :=
  s.table.halt.laws && (!s.latched || (s.table.claims.isEmpty && s.runs.run.isNone)) &&
    (s.runs.run.isNone || s.isMember)

/-! ## The link controller -/

/-- Pending frames are told apart by kind, and EVICTs by subject (section 1.6). -/
def onePerKind : List TxEntry → Bool
  | [] => true
  | e :: rest => (rest.all fun x => !x.isFor e.frame.kind e.frame.subject) && onePerKind rest

/-- The ranges of the link controller (R4, R9, R11, R12, R19): at most 4 frames in the receive queue, with room for the
frame while an own attempt is on the line, at most 7 counted attempts of a pending frame, at most 15 vetoes in a row, one
pending frame per kind. -/
def LinkUnit.laws (l : LinkUnit) : Bool :=
  decide (l.rx.length ≤ 4) && (!l.line.own || decide (l.rx.length ≤ 3)) && (l.tx.all fun e => decide (e.attempts ≤ 7)) && decide (l.vetoRun ≤ 15) && onePerKind l.tx

/-! ## Runs, steps and channels -/

/-- The channels a state drives. -/
def ChanState.isDriving : ChanState → Bool
  | .driving _ => true
  | .closed | .opening | .opened | .holding | .relieving | .resting | .faulted => false

/-- A base that holds its claim while its run is RUNNING or PAUSED has a GRANTED record, and a CLAIMING base holds none
(R98, R105, R107). -/
def State.modeLaws (s : State) : Bool :=
  match s.runs.run with
  | none => true
  | some r =>
    match r.phase with
    | .running | .paused => r.mode == .held && s.ownGranted
    | .claiming => r.mode == .queued || r.mode == .deferred
    | .ending => true

/-- The channel of the step that is DRIVING and has not ended. -/
def State.drivenChan (s : State) : Option Chan :=
  match s.walked with
  | some (_, c, d) => if c.state = .driving ∧ c.result = none then some d.chan else none
  | none => none

/-- A channel is DRIVING only for the step that is DRIVING (R147). -/
def State.driveLaws (s : State) : Bool :=
  allChans.all fun c => !(s.chans.get c).state.isDriving || s.drivenChan == some c

/-- What R147 rests on: the claim list and halt laws, a held claim behind every walking run, and no channel DRIVING but
the walked step's. -/
def State.motionLaws (s : State) : Bool :=
  claimLaws s.table.claims && s.haltLaws && s.modeLaws && s.driveLaws

/-- The ranges of the run stack (R98): at most two nested entries, and at most three nests. -/
def State.stackLaws (s : State) : Bool :=
  match s.runs.run with
  | none => true
  | some r => decide (r.nests.length ≤ 2) && decide (r.nestCount ≤ 3) && decide (r.nests.length ≤ r.nestCount)

/-! ## The log -/

/-- No two records stand in one slot. -/
def slotsDistinct : List LogSlot → Bool
  | [] => true
  | x :: rest => (rest.all fun y => y.slot != x.slot) && slotsDistinct rest

/-- The ranges of the log ring (R190): each record in its own slot of the 32, and the write position a slot. -/
def LogUnit.laws (l : LogUnit) : Bool :=
  slotsDistinct l.slots && (l.slots.all fun x => decide (x.slot < 32)) && decide (l.wpos < 32)

/-- The records IN-PROGRESS. -/
def LogUnit.openCount (l : LogUnit) : Nat := (l.slots.filter fun x => x.data.outcome == .inProgress).length

/-- The youngest record of the log. -/
def LogUnit.youngest (l : LogUnit) : Option LogRec := l.slots.getLast?.map LogSlot.data

/-! ## Leaving the body -/

/-- A channel that is neither open nor on its way to it: CLOSED, RELIEVING, RESTING or FAULTED. -/
def ChanState.letDown : ChanState → Bool
  | .closed | .relieving | .resting | .faulted => true
  | .opening | .opened | .driving _ | .holding => false

/-- The node once a stack that ends at once has its records (R101, R112, R188): the step in progress and the base take the
outcome, or the one that ENDING fixed before; the base's CLAIM-PHASE record carries a cause for FAILED and REFUSED. -/
def State.runRecordsEnded (s : State) (o : RunOutcome) : State :=
  match s.runs.run with
  | none => s
  | some r =>
    let out : RunOutcome := match r.ending with | some x => x.1 | none => o
    let cause : Option Cause := match r.ending with | some x => x.2 | none => none
    (s.closeRec out none).writeRec
      { kind := .claimPhase, run := r.base.num, depth := 0, man := some r.base.man, idx := none, outcome := out
        cause := if out = .failed ∨ out = .refused then cause else none
        retries := 0, startTag := r.runTag.getD r.claimTag, endTag := some s.log.tag, height := none }

/-- The REQUEST record of an entry into ISOLATED, BARRED or UNFIT (R188). -/
def State.departureRec (s : State) (d : Departure) (c : Cause) : LogRec :=
  { kind := .request, run := s.runs.counter, depth := 0, man := none, idx := none, outcome := d.outcome, cause := some c
    retries := 0, startTag := s.log.tag, endTag := some s.log.tag, height := none }

/-- `t` is the node `s` after it has left the body: everything R39 lists, with R41's difference, R19, R72, R74, R84, R112
and R196; the records of a run that ends stand before the REQUEST record (R188). -/
def hasLeft (s t : State) (d : Departure) (c : Cause) : Prop :=
  (t.member.mstate = d.mstate ∧ t.member.cause = some c ∧ (∀ n, t.entry n = Entry.blank) ∧
    t.member.takeCount = s.member.takeCount ∧ t.member.bodyFit = none ∧ (∀ n : Fin 8, t.member.owed[n] = false) ∧
    t.member.listenTimer = none ∧ t.member.joinTimer = none ∧
    t.member.restTimer = if d = .isolated then some 500 else none) ∧
  (t.table.claims = [] ∧ t.table.halt = HaltState.off) ∧
  (t.link.tx = [] ∧ t.link.rx = [] ∧ t.link.line = .quiet ∧ t.link.vetoRun = 0) ∧
  (t.runs.run = none ∧ t.steps.cur = none ∧
    ∀ x, (t.chans.get x).state.letDown = true ∧ ((t.chans.get x).state = .faulted ↔ (s.chans.get x).state = .faulted)) ∧
  (t.lines.openLatch = false ∧ t.lines.closeLatch = false ∧ t.lines.window = none ∧
    t.lines.held =
      match s.lines.held with
      | .held _ | .spent => .spent
      | .armed =>
        if s.straps.role = .lift ∧ s.input 2 = true ∧ (s.input 3 = true ∨ s.input 4 = true ∨ s.input 5 = true ∨
          s.input 6 = true ∨ s.input 7 = true ∨ s.input 8 = true) then .spent
        else .armed) ∧
  (t.post.period = none ∧ t.post.spacing = none ∧ t.post.changed = false) ∧ t.pump.on = false ∧
  (t.port = match s.port.relay with
    | none => s.port
    | some _ => { s.port with answer := .sending [.noReply], relay := none, relayTimer := none }) ∧
  t.log.youngest = some (s.departureRec d c) ∧
  t.log = ((s.runRecordsEnded .isolated).writeRec (s.departureRec d c)).log

/-- What a departure keeps (R39: isolation is not a reset). -/
def keptOnLeaving (s t : State) : Prop :=
  t.straps = s.straps ∧ t.serial = s.serial ∧ t.log.tag = s.log.tag ∧ t.lines.inputs = s.lines.inputs ∧
    t.lines.height = s.lines.height ∧ t.lines.standstill = s.lines.standstill ∧
    t.lines.standTimer = s.lines.standTimer ∧ t.lines.outLatch = s.lines.outLatch ∧
    t.runs.counter = s.runs.counter ∧ t.pump.runTime = s.pump.runTime ∧ t.pump.rest = s.pump.rest ∧
    t.pending = s.pending

/-! ## Frames -/

/-- The node once the head of the receive queue is removed (R17). -/
def State.popped (s : State) : State := { s with link := { s.link with rx := s.link.rx.tail } }

/-- The head of the receive queue is this frame. -/
def State.headIs (s : State) (k : Kind) (n : Node) (p : List Byte) (noted : BitVec 8) : Prop :=
  s.link.rx.head? = some { kind := k, sender := n, payload := p, noted := noted }

/-- A frame is pending and not withdrawn. -/
def State.pends (s : State) (f : TxFrame) : Prop := ∃ e ∈ s.link.tx, e.frame = f ∧ e.withdrawn = false

/-- Two nodes hold the same replica: claim list, halt state, body fitting code, owed set, and state and role of every
roster entry (R30, R57). -/
def sameReplica (s t : State) : Prop :=
  s.table = t.table ∧ s.member.bodyFit = t.member.bodyFit ∧ s.member.owed = t.member.owed ∧
    ∀ n, (s.entry n).state = (t.entry n).state ∧ (s.entry n).role = (t.entry n).role

/-- The four conditions of R55 on a WAITING record: `older` stands before it in the walk and `younger` behind it. -/
def mayGrant (older younger : List ClaimRec) (r : ClaimRec) : Prop :=
  (∀ q ∈ older ++ younger, q.state = .granted → q.set.meets r.set = false) ∧
    r.units + supplyInUse (older ++ younger) ≤ 12 ∧
    (∀ q ∈ older, q.state = .waiting → q.set.meets r.set = false) ∧
    (0 < r.units → ∀ q ∈ older, q.state = .waiting → q.units = 0)

/-- The command that processes a frame of a kind at the head of the receive queue (R17). -/
def frameCommand : Kind → Instr
  | .halt => .halt
  | .clear => .clear
  | .evict => .evict
  | .yield => .yield
  | .claim => .claim
  | .snapshot => .snapshot
  | .join => .join
  | .posture => .posture
  | .probe => .probe
  | .reply => .reply

/-- The payload does not fit its kind (R18). -/
def malformed : Kind → List Byte → Bool
  | .halt, p => (readHaltPayload p).isNone
  | .clear, p => (readEmptyPayload p).isNone
  | .evict, p => (readEvictPayload p).isNone
  | .yield, p => (readEmptyPayload p).isNone
  | .claim, p => (readClaimPayload p).isNone
  | .snapshot, p => (readSnapPayload p).isNone
  | .join, p => (readJoinPayload p).isNone
  | .posture, p => (readPosturePayload p).isNone
  | .probe, p => (readProbePayload p).isNone
  | .reply, p => (readReplyPayload p).isNone

/-- A run summary within its ranges (R78). -/
def Summary.inRange (x : Summary) : Bool :=
  match x.depth, x.man with
  | 0, none => x.step.isNone && x.idx == 0
  | 0, some _ => false
  | n + 1, some _ => decide (n + 1 ≤ 3) && decide (x.idx ≤ 3)
  | _ + 1, none => false

/-- A log record within its ranges (R187). -/
def LogRec.inRange (r : LogRec) : Bool :=
  decide (r.depth ≤ 2) && decide (r.retries ≤ 3) &&
    (match r.idx with | some i => decide (1 ≤ i) && decide (i ≤ 3) | none => true) &&
    (match r.height with | some h => decide (h ≤ 1103) | none => true) &&
    (r.man.isSome || r.kind == .request || r.kind == .restart)

/-- A claim record within its ranges (R45): a non-empty set and at most 12 units. -/
def ClaimRec.inRange (r : ClaimRec) : Bool := r.set != ResSet.empty && decide (r.units ≤ 12)

/-! ## Inputs and outputs -/

/-- A filter's timer runs exactly while the raw level differs from the filtered value (R67). -/
def State.filterLaws (s : State) : Bool :=
  (List.finRange 16).all fun i =>
    s.lines.inputs[i].timer.isSome == (rawActive s.straps.role i s.lines.inputs[i].closed != s.lines.inputs[i].active)

/-- The pump output is on exactly while the conditions of R163 hold. -/
def State.pumpLaws (s : State) : Bool := s.pump.on == s.pumpWanted

/-- On a BEACON node every group holds the demand of R175, and hazard is in force exactly while a cause of R179 stands. -/
def State.beaconLaws (s : State) : Bool :=
  s.beacon.hazard == s.hazardCause &&
    (s.straps.role != .beacon || allGroups.all fun g => (s.beacon.get g).demanded == s.demand g)

end Sys2Proof.Machine
end

