-- ==== Sys2Proof/WellFormed.lean ====
section
/-! DEFINITION. The well-formed commands: the operands the spec's own event can carry. -/

namespace Sys2Proof

/-- No character of a line is its ending carriage return: a good 13 ends the line (R192). -/
def noCarriageReturn (l : List RxChar) : Bool := l.all fun c => c.stopLow || c.code != 13

/-- The line, received on an empty buffer, is read as `r` (R192, R193). -/
def lineReadsAs (l : List RxChar) (p : Machine.LineRead → Bool) : Bool :=
  noCarriageReturn l && p (Machine.LineBuf.empty.gather l).read

/-- Well-formedness of a command. A length field holds at most 63 (R2); only OUT0-OUT8 belong to a channel and only
OUT0-OUT5 to a lamp group (R70); a service-port row's characters are a line of that row (R193). -/
def Instr.wf : Instr → Bool
  | .vetoSlot rx _ => rx.payload.length ≤ 63
  | .channelDriverFault o _ => o.val ≤ 8
  | .lampFault o _ => o.val ≤ 5
  | .status l => lineReadsAs l (· == .status)
  | .roster l => lineReadsAs l (· == .roster)
  | .table l => lineReadsAs l (· == .table)
  | .log l => lineReadsAs l (· == .log)
  | .peerStatus l => lineReadsAs l fun r => match r with | .peerStatus _ => true | _ => false
  | .peerLog l => lineReadsAs l fun r => match r with | .peerLog _ _ => true | _ => false
  | .error l => lineReadsAs l (· == .wrong)
  | .powerOnReset _ | .externalReset _ | .loopTest _ _ | .attemptStart | .arbitrationLost | .transmitError
  | .transmitGuard | .halt | .clear | .evict | .yield | .claim | .snapshot | .join | .posture | .probe | .reply
  | .listenTimer | .joinRepeatTimer | .isolationRestTimer | .silenceTimer _ | .rawInputChange _ _
  | .inputFilterExpiry _ | .strokePulse | .roadSpeedPulse | .standstillTimer | .requestWindowTimer
  | .outputFaultLatch _ _ | .claimWaitTimer | .pauseTimer | .settleTimer _ | .leadTimer | .recoveryTimer
  | .primingTimer | .driveLimit | .driveTimeEnd | .posturePeriodTimer | .postureSpacingTimer | .idleTimer
  | .dutyLimit | .restTimer | .plausibilityTimer | .groupTimer _ _ _ | .hazardFlashTimer | .testSlotTimer _ _
  | .cabFaultFlashTimer | .nodeOkFlashTimer | .timeTagTick | .answerSent | .relayTimer | .idleGap => true

end Sys2Proof
end

