-- ==== Sys2Proof/Certificates/Slice0/Obligations.lean ====
section
/-! DEFINITION. The statements for the provers. `finish old t` is `t` with what follows in the same event: the moves of
the engines and the passes of the blocks that read their state (assumption 23). -/

open Sys2Proof Sys2Proof.Machine

/-! ## Steps of the block -/

/-- A step takes the command at the front of the queue and gives its effect on the state with the queue's rest. -/
def Obligations.StepRunsTheFrontCommand : Prop :=
  ∀ (c : Instr) (q : List Instr) (s : State), s.pending = c :: q → step s = exec c { s with pending := q }

/-- A step on an empty queue counts one millisecond of drive time and of the pump's running time, each as far as just
below its limit, the model's choice (assumption 1), and leaves membership, replica, lines, port and time tag. -/
def Obligations.EmptyQueueCountsOneMillisecond : Prop :=
  ∀ s : State, s.pending = [] →
    step s = .next (finish s s.countDrive.countPump) ∧
    (∀ r c d, s.walked = some (r, c, d) → s.driveCounts c d = true →
      s.countDrive.steps = { s.steps with driveTime :=
        match c.limit with
        | some ms => if s.steps.driveTime + 1 < ms then s.steps.driveTime + 1 else s.steps.driveTime
        | none => s.steps.driveTime + 1 }) ∧
    ∃ t, step s = .next t ∧
      t.pump.runTime =
        (if s.pump.on = true ∧ s.pump.runTime + 1 < s.fitRow.duty * 1000 then s.pump.runTime + 1 else s.pump.runTime) ∧
      t.member = s.member ∧ t.table = s.table ∧ t.lines = s.lines ∧ t.port = s.port ∧ t.log.tag = s.log.tag ∧
      t.link.rx = s.link.rx ∧ t.pending = []

/-- No command faults and none is refused: each has a next state from every state, and so has every step. The queue and
the serial are as before, and so are the straps after every command but the two resets. -/
def Obligations.EveryCommandGoesOn : Prop :=
  (∀ (c : Instr) (s : State), ∃ t, exec c s = .next t ∧ t.pending = s.pending ∧ t.serial = s.serial ∧
    ((∀ p, c ≠ .powerOnReset p) → (∀ p, c ≠ .externalReset p) → t.straps = s.straps)) ∧
  ∀ s : State, ∃ t, step s = .next t

/-- What follows in the same event (the engines' moves and the blocks that read them) leaves straps, membership unit,
replica, lines, port, time tag, receive queue, the node's use of the line, veto run count, driver cut-off and footing.
The commands of the lines, drivers, engines, pump, beacons, postures and time tag leave all of these but the lines, and
all but the time tag's own leave the tag. -/
def Obligations.LocalCommandsLeaveTheBodyAlone : Prop :=
  (∀ old s : State,
    let t := finish old s
    t.straps = s.straps ∧ t.serial = s.serial ∧ t.member = s.member ∧ t.table = s.table ∧ t.lines = s.lines ∧
      t.port = s.port ∧ t.log.tag = s.log.tag ∧ t.link.rx = s.link.rx ∧ t.link.line = s.link.line ∧
      t.link.vetoRun = s.link.vetoRun ∧ t.link.driverCut = s.link.driverCut ∧ t.link.footing = s.link.footing ∧
      t.pending = s.pending) ∧
  ∀ (c : Instr) (s t : State), exec c s = .next t →
    (match c with
      | .rawInputChange _ _ | .inputFilterExpiry _ | .strokePulse | .roadSpeedPulse | .standstillTimer
      | .requestWindowTimer | .channelDriverFault _ _ | .lampFault _ _ | .outputFaultLatch _ _ | .claimWaitTimer
      | .pauseTimer | .settleTimer _ | .leadTimer | .recoveryTimer | .primingTimer | .driveLimit | .driveTimeEnd
      | .posturePeriodTimer | .postureSpacingTimer | .idleTimer | .dutyLimit | .restTimer | .plausibilityTimer
      | .groupTimer _ _ _ | .hazardFlashTimer | .testSlotTimer _ _ | .cabFaultFlashTimer | .nodeOkFlashTimer
      | .timeTagTick => True
      | _ => False) →
    t.member = s.member ∧ t.table = s.table ∧ t.link.rx = s.link.rx ∧ t.link.line = s.link.line ∧
      t.link.vetoRun = s.link.vetoRun ∧ t.link.driverCut = s.link.driverCut ∧ t.link.footing = s.link.footing ∧
      t.port = s.port ∧ (c ≠ .timeTagTick → t.log.tag = s.log.tag)

/-- Frame of the line unit: only its own commands, an output fault, a reset, a processed HALT and leaving the body
change it; a HALT and leaving change the request latches, the window and the detector alone. (The premise of the last
clause, an attempt on the line only in JOIN-WAIT or MEMBER, holds in every state a run reaches.) -/
def Obligations.LineUnitIsChangedByItsOwnEvents : Prop :=
  ∀ (c : Instr) (s t : State), exec c s = .next t →
    (match c with
      | .rawInputChange _ _ | .inputFilterExpiry _ | .strokePulse | .roadSpeedPulse | .standstillTimer
      | .requestWindowTimer | .outputFaultLatch _ _ | .powerOnReset _ | .externalReset _ => False
      | _ => True) →
    t.lines.inputs = s.lines.inputs ∧ t.lines.height = s.lines.height ∧ t.lines.standstill = s.lines.standstill ∧
      t.lines.standTimer = s.lines.standTimer ∧ t.lines.outLatch = s.lines.outLatch ∧
      ((s.link.line.own = true → s.mayQueue = true) → c ≠ .halt → t.member.mstate = s.member.mstate →
        t.lines = s.lines)

/-! ## Resets -/

/-- The values of the state after reset that the spec gives. -/
def Obligations.ResetStateHoldsTheStatedValues : Prop :=
  let s := State.reset
  s.link.tx = [] ∧ s.link.rx = [] ∧ s.link.vetoRun = 0 ∧ s.link.driverCut = false ∧
    s.member.mstate = .start ∧ s.member.cause = none ∧ s.member.takeCount = 0 ∧ s.member.bodyFit = none ∧
    s.member.listenTimer = none ∧ s.member.joinTimer = none ∧ s.member.restTimer = none ∧
    (∀ n : Node, s.member.owed[n] = false ∧ s.entry n =
      { state := .unknown, role := none, last := none, heard := false, agree := true, fresh := false, silence := none }) ∧
    s.table.claims = [] ∧ s.table.halt = { latch := none, count := 0 } ∧ s.ownRecord = none ∧
    (∀ i : Fin 16, s.lines.inputs[i].active = false) ∧ s.lines.openLatch = false ∧ s.lines.closeLatch = false ∧
    s.lines.window = none ∧ s.lines.held = .armed ∧ s.lines.height = none ∧ s.lines.standstill = false ∧
    (∀ o : Fin 12, s.lines.outLatch[o] = false) ∧
    s.post = { period := none, spacing := none, changed := false } ∧
    s.runs = { run := none, counter := 0, claimWait := none, fn := none } ∧
    s.steps = { cur := none, retries := 0, driveTime := 0, lead := none, recovery := none, priming := none, pause := none } ∧
    (∀ c, s.chans.get c = { state := .closed, held := false, settle := none }) ∧
    s.pump = { on := false, runTime := 0, idle := none, rest := none, plaus := none, faulty := false } ∧
    (∀ g, s.beacon.get g = { state := .dark, timer := none, demanded := false }) ∧ s.beacon.hazard = false ∧
    s.beacon.flash.timer = none ∧ s.beacon.test = .notRun ∧ s.beacon.slot = none ∧ s.cab.timer = none ∧
    s.nodeOk = { timer := none, on := false } ∧ s.log = { tag := 0, slots := [], wpos := 0 } ∧
    s.port = { buf := LineBuf.empty, answer := .idle, busyOwed := false, relay := none, relayTimer := none } ∧
    s.pending = []

/-- Power-on reset samples the straps and leaves every block at its reset value; each filter runs from the raw level it
finds, and STANDSTILL's timer starts on the CAB. External RESET differs from it in the log alone: every record held
stays, an open one closed with outcome CUT and no change else, the RESTART record is the youngest, at the write
position, and the time tag is 0. -/
def Obligations.ResetsLeaveTheResetState : Prop :=
  (∀ (p : StrapPins) (s : State), ∃ t, exec (.powerOnReset p) s = .next t ∧
    t.straps.node = p.node ∧ t.straps.fit = p.fit ∧ t.straps.side = (if p.side then .road else .kerb) ∧
    t.straps.role = (match p.role with | 0 => Role.cab | 1 => .lift | 2 => .hatch | 3 => .beacon) ∧
    t.link = State.reset.link ∧ t.member = State.reset.member ∧ t.table = State.reset.table ∧
    t.post = State.reset.post ∧ t.runs = State.reset.runs ∧ t.steps = State.reset.steps ∧
    t.chans = State.reset.chans ∧ t.pump = State.reset.pump ∧ t.beacon = State.reset.beacon ∧
    t.cab = State.reset.cab ∧ t.nodeOk = State.reset.nodeOk ∧ t.log = State.reset.log ∧ t.port = State.reset.port ∧
    (∀ i : Fin 16, t.lines.inputs[i].closed = s.lines.inputs[i].closed ∧ t.lines.inputs[i].active = false ∧
      t.lines.inputs[i].timer =
        if isStopLoop t.straps.role i then (if s.lines.inputs[i].closed then none else some 5)
        else if s.lines.inputs[i].closed then some 20 else none) ∧
    t.lines.openLatch = false ∧ t.lines.closeLatch = false ∧ t.lines.window = none ∧ t.lines.held = .armed ∧
    t.lines.height = none ∧ t.lines.standstill = false ∧ (∀ o : Fin 12, t.lines.outLatch[o] = false) ∧
    t.lines.standTimer = (if t.straps.role = .cab then some 2000 else none) ∧
    t.serial = s.serial ∧ t.pending = s.pending) ∧
  ∀ (p : StrapPins) (s : State), ∃ t u, exec (.externalReset p) s = .next t ∧ exec (.powerOnReset p) s = .next u ∧
    t = { u with log := t.log } ∧ t.log.tag = 0 ∧
    t.log.slots =
      ((s.log.slots.map fun x =>
          if x.data.outcome = .inProgress then { x with data := { x.data with outcome := .cut } } else x).filter
        fun x => x.slot != s.log.wpos) ++
      [{ slot := s.log.wpos
         data :=
           { kind := .restart, run := 0, depth := 0, man := none, idx := none, outcome := .done, cause := none
             retries := 0, startTag := 0, endTag := some 0, height := none } }]

/-- The state after reset keeps every law that the invariants below state. -/
def Obligations.ResetStateIsLawful : Prop :=
  State.reset.motionLaws = true ∧ State.reset.stackLaws = true ∧ State.reset.link.laws = true ∧
    State.reset.log.laws = true ∧ State.reset.filterLaws = true ∧ State.reset.pumpLaws = true ∧
    State.reset.beaconLaws = true

/-! ## The link -/

/-- The loop test passes exactly on the node's own JOIN frame read back bit for bit with a recessive veto slot: then the
node enters LISTEN with its timer at 450 ms, and otherwise it leaves into UNFIT with cause LOOP-TEST. How a bit enters the
CRC among the frame's bits is the model's reading (assumption 47). -/
def Obligations.LoopTestDecidesListenOrUnfit : Prop :=
  ∀ (bits : List Bool) (slot : Bool) (s : State), s.member.mstate = .start →
    let join : List Byte := [byte s.straps.roleSide.code, byte s.straps.fit.val] ++ bytes24 s.serial
    (bits = frameBits 6 s.own join ∧ slot = true →
      ∃ t, exec (.loopTest bits slot) s = .next t ∧
        t.member = { s.member with mstate := .listen, listenTimer := some 450, restTimer := none } ∧
        t.link.rx = s.link.rx ∧ t.link.footing = false ∧ t.table = s.table) ∧
    (¬(bits = frameBits 6 s.own join ∧ slot = true) →
      ∃ t, exec (.loopTest bits slot) s = .next t ∧ hasLeft s t .unfit .loopTest)

/-- An attempt sends the pending frame of the lowest kind class, the oldest of that class, with its content fixed at the
start; a POSTURE's clears the change mark. The start shows that the idle gap was seen (assumption 10), the rest of a
broken frame being over by then (assumption 9). Nothing else changes. A POSTURE carries the take count, the member set
(a node whose own entry is not MEMBER leaves its own number out, the model's choice, assumption 38), the own conditions
by their positions, the run summary, the halt latch and the serial, as they stand at the start. A HALT carries its stop
source, an EVICT its subject, a CLAIM the weights of its set, the units and the manoeuvre, a JOIN role with side, fitting
code and serial, a PROBE target and request, a REPLY requester, echo and content with its kind, a CLEAR and a YIELD
nothing. No attempt starts outside JOIN-WAIT and MEMBER, with the driver cut off, with 4 frames in the receive queue, with an own attempt on the line, with
nothing pending, or with a SNAPSHOT as the frame to send and a frame in the receive queue: the command changes nothing
(assumption 3). -/
def Obligations.AttemptSendsTheHeadFrame : Prop :=
  let first (tx : List TxEntry) (e : TxEntry) := ∃ a b, tx = a ++ e :: b ∧
    (∀ x ∈ a, e.frame.kind.cls < x.frame.kind.cls) ∧ ∀ x ∈ b, e.frame.kind.cls ≤ x.frame.kind.cls
  (∀ (s : State) (e : TxEntry), first s.link.tx e →
    ((s.member.mstate = .joinWait ∨ s.member.mstate = .member) → s.link.driverCut = false →
      (s.link.line = .quiet ∨ s.link.line = .broken) →
      s.link.rx.length < 4 → (e.frame.kind = .snapshot → s.link.rx = []) →
      exec .attemptStart s = .next
        { s with
          link := { s.link with line := .sending e.frame.kind e.frame.subject (s.payloadOf e.frame), footing := true }
          post := { s.post with changed := s.post.changed && e.frame.kind != .posture } }) ∧
    (e.frame.kind = .snapshot → s.link.rx ≠ [] → exec .attemptStart s = .next s)) ∧
  (∀ s : State, ∃ (members : BitVec 8) (conds : BitVec 16),
    let positions : List Cond := [.runActive, .fault, .stopPressed] ++
      (match s.straps.role with
        | .cab => [.brakeSet, .standstill, .bodyOn]
        | .lift =>
          [.folded, .unfolded, .atFloor, .atBed, .level, .pressureUp, .pumpRunning, .pumpResting, .pumpDemand]
        | .hatch => [.latched, .openFull, .edgeClear, .pumpDemand]
        | .beacon =>
          [.rearLit, .kerbLit, .roadLit, .flagsLit, .rearFailed, .kerbFailed, .roadFailed, .flagsFailed, .hazard])
    let summary : List Byte :=
      match s.runs.run, s.steps.cur with
      | none, _ => [0, 0, 0]
      | some r, none => [byte (16 * (r.nests.length + 1)), byte r.top.man.code, 0]
      | some r, some c => [byte (16 * (r.nests.length + 1) + c.state.code), byte r.top.man.code, byte r.top.idx]
    (∀ n : Fin 8, members.getLsbD n.val = true ↔ (s.entry n).state = .member) ∧
    (∀ i : Fin 16, conds.getLsbD i.val = match positions[i.val]? with | some x => s.cond x | none => false) ∧
    s.payloadOf .posture =
      [s.member.takeCount, members] ++ bytes16 conds ++ summary ++ [if s.table.halt.latch = none then 0 else 1] ++
        bytes24 s.serial) ∧
  (∀ s : State,
    let echo (q : ProbeReq) : List Byte := match q with | .status => [0, 0] | .log i => [1, byte i.val]
    (∀ src, s.payloadOf (.halt src) = [match src with | .panel => 0 | .pendant => 1]) ∧
    s.payloadOf .clear = [] ∧ s.payloadOf .yield = [] ∧
    (∀ n : Node, s.payloadOf (.evict n) = [byte n.val]) ∧
    (∀ (set : ResSet) (units : Nat) (man : Manoeuvre),
      let weight (b : Bool) (w : Nat) : Nat := if b = true then w else 0
      s.payloadOf (.claim set units man) =
        [byte (weight set.pump 1 + weight set.rear 2 + weight set.kerb 4 + weight set.road 8), byte units, byte man.code]) ∧
    (let role : Byte :=
      match s.straps.role, s.straps.side with
      | .cab, _ => 0
      | .lift, _ => 2
      | .hatch, .kerb => 4
      | .hatch, .road => 5
      | .beacon, _ => 6
    s.payloadOf .join = [role, byte s.straps.fit.val] ++ bytes24 s.serial) ∧
    (∀ (target : Node) (q : ProbeReq), s.payloadOf (.probe target q) = [byte target.val] ++ echo q) ∧
    ∀ (requester : Node) (q : ProbeReq) (x : ReplyContent),
      s.payloadOf (.reply requester q x) = [byte requester.val] ++ echo q ++
        match x with
        | .none => [0]
        | .summary y => 1 :: y.bytes
        | .record y => 2 :: y.bytes) ∧
  ∀ s : State,
    (s.member.mstate ≠ .joinWait ∧ s.member.mstate ≠ .member) ∨ s.link.driverCut = true ∨ 4 ≤ s.link.rx.length ∨
      s.link.tx = [] ∨ (∃ k subj p, s.link.line = .sending k subj p) →
    exec .attemptStart s = .next s

/-- A lost arbitration frees the line, counts nothing and keeps the frame, unless it was withdrawn meanwhile (assumption
7 for JOIN and SNAPSHOT). The rest of a frame the node broke off is over at its veto slot, with neither veto nor take,
or at an idle gap (assumption 9). At an idle gap a node that takes frames gains its footing, and nothing else changes.
-/
def Obligations.UncountedEndsFreeTheLine : Prop :=
  ∀ s : State,
    (∀ (k : Kind) (subj : Option Node) (p : List Byte), s.link.line = .sending k subj p →
      exec .arbitrationLost s = .next (finish s
        { s with link := { s.link with
          line := .quiet
          tx := s.link.tx.filter fun e => !(e.frame.kind == k && e.frame.subject == subj && e.withdrawn) } })) ∧
    (∀ (f : LineFrame) (v : Bool), s.link.line = .broken →
      exec (.vetoSlot f v) s = .next (finish s { s with link := { s.link with line := .quiet } })) ∧
    ((s.member.mstate = .listen ∨ s.member.mstate = .joinWait ∨ s.member.mstate = .member) →
      exec .idleGap s = .next
        { s with link := { s.link with
          footing := true, line := if s.link.line = .broken then .quiet else s.link.line } })

/-- A transmit error, and a veto of the node's own frame, raise the frame's attempt count by 1. The frame keeps its
place unless it was withdrawn (assumption 7 for JOIN and SNAPSHOT); after a transmit error the node holds the rest of
that frame for broken (assumption 9). The eighth counted attempt of a frame, a withdrawn one included (assumption 8),
isolates the node with cause LINK-RETRIES. -/
def Obligations.CountedAttemptsEndInIsolation : Prop :=
  ∀ (s : State) (k : Kind) (subj : Option Node) (p : List Byte) (f : LineFrame), s.link.line = .sending k subj p →
    let counted := s.link.tx.map fun e =>
      if e.frame.kind == k && e.frame.subject == subj then { e with attempts := e.attempts + 1 } else e
    ((∀ e ∈ counted, e.attempts < 8) →
      let kept := counted.filter fun e => !(e.frame.kind == k && e.frame.subject == subj && e.withdrawn)
      exec .transmitError s = .next (finish s { s with link := { s.link with line := .broken, tx := kept } }) ∧
      exec (.vetoSlot f true) s = .next (finish s { s with link := { s.link with line := .quiet, tx := kept } })) ∧
    ∀ e ∈ s.link.tx, e.frame.kind = k → e.frame.subject = subj → e.attempts = 7 →
      (∃ t, exec .transmitError s = .next t ∧ hasLeft s t .isolated .linkRetries) ∧
      ∃ t, exec (.vetoSlot f true) s = .next t ∧ hasLeft s t .isolated .linkRetries

/-- An own frame that is not vetoed is taken: it leaves the transmit list with its count and enters the receive queue as
fixed at the start of the attempt, a table frame raises the take count, and the veto run count is 0. A JOIN starts the
repeat timer at 500 ms in JOIN-WAIT; a POSTURE reloads the period at 50 ms and starts the spacing at 10 ms in MEMBER,
and a change mark set since its attempt began stands. That it does so while the spacing still runs too is the model's
choice (assumption 49). -/
def Obligations.OwnFrameIsTaken : Prop :=
  ∀ (s : State) (k : Kind) (subj : Option Node) (p : List Byte) (f : LineFrame), s.link.line = .sending k subj p →
    exec (.vetoSlot f false) s = .next (finish s
      { s with
        link := { s.link with
          line := .quiet, vetoRun := 0
          tx := s.link.tx.filter fun e => !(e.frame.kind == k && e.frame.subject == subj)
          rx := s.link.rx ++ [{ kind := k, sender := s.own, payload := p, noted := s.member.takeCount }] }
        member := { s.member with
          takeCount := s.member.takeCount + (if k.isTable then 1 else 0)
          joinTimer := if k = .join ∧ s.member.mstate = .joinWait then some 500 else s.member.joinTimer }
        post :=
          if k = .posture ∧ s.member.mstate = .member then { s.post with period := some 50, spacing := some 10 }
          else s.post }) ∧
    ∃ t, exec (.vetoSlot f false) s = .next t ∧
      (∀ e ∈ t.link.tx, e.frame.kind = k → e.frame.subject = subj →
        k = .claim ∨ k = .yield ∨ k = .snapshot ∨ k = .posture) ∧
      t.link.rx = s.link.rx ++ [{ kind := k, sender := s.own, payload := p, noted := s.member.takeCount }] ∧
      t.member.roster = s.member.roster ∧ t.member.mstate = s.member.mstate ∧ t.table = s.table

/-- The receivers' side of the veto slot, for a node that watches the line and has nothing of its own on it: an
incomplete frame changes nothing; a complete one that is bad, or finds four frames in the queue, is vetoed in JOIN-WAIT
and MEMBER, the sixteenth veto in a row isolating the node. In LISTEN it is neither vetoed nor taken. How a bit enters the
CRC is the model's reading (assumption 47). -/
def Obligations.ReceiverVetoesWhatItCannotTake : Prop :=
  ∀ (s : State) (f : LineFrame) (v : Bool), s.link.line = .quiet → s.link.footing = true →
    let bad := f.check ≠ crc15 (checkedBits f.cls.val f.sender f.payload) ∨ 48 < f.payload.length ∨ 9 < f.cls.val
    (f.closing = false → exec (.vetoSlot f v) s = .next (finish s s)) ∧
    (s.member.mstate = .listen → bad ∨ 4 ≤ s.link.rx.length → exec (.vetoSlot f v) s = .next (finish s s)) ∧
    ((s.member.mstate = .joinWait ∨ s.member.mstate = .member) → f.closing = true → bad ∨ 4 ≤ s.link.rx.length →
      (s.link.vetoRun < 15 →
        exec (.vetoSlot f v) s =
          .next (finish s { s with link := { s.link with vetoRun := s.link.vetoRun + 1 } })) ∧
      (s.link.vetoRun = 15 → ∃ t, exec (.vetoSlot f v) s = .next t ∧ hasLeft s t .isolated .vetoGuard))

/-- A frame received well, with room in the queue, is taken in LISTEN, JOIN-WAIT and MEMBER exactly if nobody vetoes it:
it enters the receive queue with the take count noted, raises the take count if it is a table frame, sets the veto run
count to 0 and marks its sender HEARD, reloading the silence timer of a MEMBER. How a bit enters the CRC is the model's
reading (assumption 47). -/
def Obligations.ReceiverTakesAFrame : Prop :=
  ∀ (s : State) (k : Kind) (n : Node) (p : List Byte), s.link.line = .quiet → s.link.footing = true →
    (s.member.mstate = .listen ∨ s.member.mstate = .joinWait ∨ s.member.mstate = .member) →
    s.link.rx.length < 4 → p.length ≤ 48 → n ≠ s.own →
    ∀ f : LineFrame, f.cls.val = k.cls → f.sender = n → f.payload = p → f.check = crc15 (checkedBits k.cls n p) →
      f.closing = true →
    exec (.vetoSlot f true) s = .next (finish s s) ∧
    ∃ t, exec (.vetoSlot f false) s = .next t ∧ t.link.vetoRun = 0 ∧
      t.link.rx = s.link.rx ++ [{ kind := k, sender := n, payload := p, noted := s.member.takeCount }] ∧
      t.member.takeCount = s.member.takeCount + (if k.isTable then 1 else 0) ∧
      t.entry n = { s.entry n with
        heard := true
        silence := if (s.entry n).state = .member then some 150 else (s.entry n).silence } ∧
      (∀ m, m ≠ n → t.entry m = s.entry m) ∧ t.table = s.table ∧ t.link.line = .quiet

/-- The transmit guard cuts the driver off and sends a node of JOIN-WAIT or MEMBER to UNFIT with cause TRANSMIT-GUARD;
only a reset connects the driver again. -/
def Obligations.TransmitGuardCutsTheDriverOff : Prop :=
  (∀ s : State, (s.member.mstate = .joinWait ∨ s.member.mstate = .member) →
    ∃ t, exec .transmitGuard s = .next t ∧ hasLeft s t .unfit .transmitGuard ∧ keptOnLeaving s t ∧
      t.link.driverCut = true) ∧
  ∀ (c : Instr) (s t : State), exec c s = .next t → (∀ p, c ≠ .powerOnReset p) → (∀ p, c ≠ .externalReset p) →
    s.link.driverCut = true → t.link.driverCut = true

/-! ## Processing a frame -/

/-- The command of a frame kind processes the head of the receive queue if it is of that kind, and with an empty queue
or another head it changes nothing (assumption 3). The head is removed, and nothing else changes if the frame is
malformed, if the node is not MEMBER and the frame is no JOIN, POSTURE or SNAPSHOT, if it is a JOIN or POSTURE and the
node is neither MEMBER nor in LISTEN or JOIN-WAIT, or if it is a SNAPSHOT and the node is neither MEMBER nor, as its
subject, in JOIN-WAIT. A node that leaves the body at the processing empties the queue. -/
def Obligations.ProcessingRemovesTheHead : Prop :=
  ∀ (k : Kind) (s : State),
    ((∀ r, s.link.rx.head? = some r → r.kind ≠ k) → exec (frameCommand k) s = .next (finish s s)) ∧
    ∀ r, s.link.rx.head? = some r → r.kind = k →
      (malformed k r.payload = true → exec (frameCommand k) s = .next (finish s s.popped)) ∧
      (s.member.mstate ≠ .member → k ≠ .join → k ≠ .posture → k ≠ .snapshot →
        exec (frameCommand k) s = .next (finish s s.popped)) ∧
      (s.member.mstate ≠ .member → s.member.mstate ≠ .listen → s.member.mstate ≠ .joinWait →
        exec (frameCommand k) s = .next (finish s s.popped)) ∧
      (k = .snapshot → s.member.mstate ≠ .member →
        (s.member.mstate = .joinWait → ∀ w, readSnapPayload r.payload = some w → w.subject ≠ s.own) →
        exec (frameCommand k) s = .next (finish s s.popped)) ∧
      ∃ t, exec (frameCommand k) s = .next t ∧
        (t.link.rx = s.link.rx.tail ∨
          (t.link.rx = [] ∧ (t.member.mstate = .isolated ∨ t.member.mstate = .barred)))

/-- A MEMBER that processes a HALT sets the latch with the sender as originator and count 1, or, with the latch set,
keeps the originator and raises the count by 1 up to 15, whatever the roster shows of the sender; and it writes a
REQUEST record with outcome HALTED, the stop source as cause, no manoeuvre, no step index, and the moment of processing
as both tags. -/
def Obligations.HaltSetsTheLatch : Prop :=
  ∀ (s : State) (n : Node) (src : StopSource) (m : BitVec 8), s.member.mstate = .member →
    s.headIs .halt n (haltPayload src) m →
    ∃ t, exec .halt s = .next t ∧
      t.table.halt =
        (match s.table.halt.latch with
          | none => { latch := some n, count := 1 }
          | some o =>
            { latch := some o, count := if s.table.halt.count < 15 then s.table.halt.count + 1 else 15 }) ∧
      let record : LogRec :=
        { kind := .request, run := s.runs.counter, depth := 0, man := none, idx := none, outcome := .halted
          cause := some (match src with | .panel => .panelStop | .pendant => .pendantStop)
          retries := 0, startTag := s.log.tag, endTag := some s.log.tag, height := none }
      (∃ x ∈ t.log.slots, x.data = record) ∧ (s.runs.run = none → t.log.youngest = some record)

/-- A MEMBER that processes a HALT empties its claim list and its run stack, relieves every channel, withdraws its
CLAIM, queues no YIELD, clears the request latches and the window and ends a held request; its roster is unchanged. The
held-request detector is spent where a request was held or it was spent, or where ENABLE and a function input are
active on LIFT, and stays armed otherwise. A step in progress and the base end HALTED in the log, or with the outcome
fixed before by ENDING, the base's CLAIM-PHASE record standing before the REQUEST record (assumption 12). -/
def Obligations.HaltStopsTheNode : Prop :=
  ∀ (s : State) (n : Node) (src : StopSource) (m : BitVec 8), s.member.mstate = .member →
    s.headIs .halt n (haltPayload src) m →
    ∃ t, exec .halt s = .next t ∧ t.table.claims = [] ∧ t.runs.run = none ∧ t.steps.cur = none ∧
      t.runs.claimWait = none ∧ t.runs.fn = none ∧ t.runs.counter = s.runs.counter ∧
      (∀ c, (t.chans.get c).state.letDown = true) ∧
      (∀ e ∈ t.link.tx, e.frame.kind = .claim → s.link.line.isSending .claim none = true ∧ e.withdrawn = true) ∧
      (∀ e ∈ t.link.tx, e.frame.kind = .yield → e ∈ s.link.tx) ∧
      t.lines.openLatch = false ∧ t.lines.closeLatch = false ∧ t.lines.window = none ∧
      (∀ f, t.lines.held ≠ .held f) ∧ t.member = s.member ∧ t.pump.on = false ∧
      t.lines.held =
        (match s.lines.held with
          | .held _ | .spent => .spent
          | .armed =>
            if s.straps.role = .lift ∧ s.input 2 = true ∧ (s.input 3 = true ∨ s.input 4 = true ∨ s.input 5 = true ∨
              s.input 6 = true ∨ s.input 7 = true ∨ s.input 8 = true) then .spent
            else .armed) ∧
      let request : LogRec :=
        { kind := .request, run := s.runs.counter, depth := 0, man := none, idx := none, outcome := .halted
          cause := some (match src with | .panel => .panelStop | .pendant => .pendantStop)
          retries := 0, startTag := s.log.tag, endTag := some s.log.tag, height := none }
      (s.runs.run = none → t.log = (s.writeRec request).log) ∧
      ∀ r, s.runs.run = some r →
        let o : RunOutcome := match r.ending with | some x => x.1 | none => .halted
        let cause : Option Cause := match r.ending with | some x => x.2 | none => none
        let ended : LogRec :=
          { kind := .claimPhase, run := r.base.num, depth := 0, man := some r.base.man, idx := none, outcome := o
            cause := if o = .failed ∨ o = .refused then cause else none
            retries := 0, startTag := r.runTag.getD r.claimTag, endTag := some s.log.tag, height := none }
        t.log = (((s.closeRec o none).writeRec ended).writeRec request).log

/-- A MEMBER that processes a CLEAR clears the halt exactly if the latch is set and the sender is the originator, or
holds the role CAB while the originator's entry is not MEMBER; then a node whose stop is pressed queues HALT, PANEL-STOP
if IN0 is pressed and PENDANT-STOP otherwise. Otherwise the frame has no effect. -/
def Obligations.ClearEndsTheHalt : Prop :=
  ∀ (s : State) (n : Node) (m : BitVec 8), s.member.mstate = .member → s.headIs .clear n [] m →
    let clears := ∃ o, s.table.halt.latch = some o ∧
      (n = o ∨ ((s.entry n).role = some .cab ∧ (s.entry o).state ≠ .member))
    let u : State := { s.popped with table := { claims := s.table.claims, halt := { latch := none, count := 0 } } }
    (clears → s.stopPressed = false → exec .clear s = .next (finish s u)) ∧
    (clears → s.stopPressed = true →
      exec .clear s = .next (finish s (u.queue (.halt (if s.input 0 = true then .panel else .pendant))))) ∧
    (¬clears → exec .clear s = .next (finish s s.popped))

/-- A MEMBER that processes an EVICT naming itself isolates with cause EVICTED. For a peer that is MEMBER or JOINING the
entry becomes ABSENT and its timer stops, it is owed no snapshot, a pending EVICT of it leaves unless it is on the line,
its record is removed and grants are evaluated; the node's own run engine gets GRANTED where the evaluation grants its
own record; an EVICT of any other entry has no effect. That the pending EVICT on the line stays, and is not withdrawn, is
the model's choice (assumption 36). -/
def Obligations.EvictRemovesThePeer : Prop :=
  ∀ (s : State) (n x : Node) (m : BitVec 8), s.member.mstate = .member → s.headIs .evict n [byte x.val] m →
    (x = s.own → ∃ t, exec .evict s = .next t ∧ hasLeft s t .isolated .evicted ∧ keptOnLeaving s t) ∧
    (x ≠ s.own → (s.entry x).state = .member ∨ (s.entry x).state = .joining →
      ∃ t, exec .evict s = .next t ∧ t.entry x = { s.entry x with state := .absent, silence := none } ∧
        (∀ k, k ≠ x → t.entry k = s.entry k) ∧
        (∀ k : Fin 8, t.member.owed[k] = if k = x then false else s.member.owed[k]) ∧
        t.table.halt = s.table.halt ∧
        t.table.claims =
          (if ∃ r ∈ s.table.claims, r.claimant = x then
            evalGrants (s.table.claims.filter fun r => r.claimant != x)
          else s.table.claims) ∧
        (s.link.line.isSending .evict (some x) = false → ∀ e ∈ t.link.tx, e.frame ≠ .evict x) ∧
        t.member.mstate = .member ∧
        let gone : State := State.dropPending
          ((s.popped.setEntry x { s.entry x with state := .absent, silence := none }).setOwed x false) .evict (some x)
        let u : State := { gone with table := t.table }
        exec .evict s =
          .next (finish s (if s.ownGranted = false ∧ u.ownGranted = true then u.takeVerdict .granted else u))) ∧
    (x ≠ s.own → (s.entry x).state = .unknown ∨ (s.entry x).state = .absent ∨ (s.entry x).state = .barred →
      exec .evict s = .next (finish s s.popped))

/-- A MEMBER that processes a YIELD removes the sender's record and evaluates grants, and has nothing to do where there
is none. The node's own run engine gets REMOVED for its own record, and GRANTED where the evaluation grants its own. -/
def Obligations.YieldRemovesTheRecord : Prop :=
  ∀ (s : State) (n : Node) (m : BitVec 8), s.member.mstate = .member → s.headIs .yield n [] m →
    let u : State := { s.popped with table :=
      { claims := evalGrants (s.table.claims.filter fun r => r.claimant != n), halt := s.table.halt } }
    ((∀ r ∈ s.table.claims, r.claimant ≠ n) → exec .yield s = .next (finish s s.popped)) ∧
    ((∃ r ∈ s.table.claims, r.claimant = n) →
      (n = s.own → exec .yield s = .next (finish s (u.takeVerdict .removedByYield))) ∧
      (n ≠ s.own → s.ownGranted = false → u.ownGranted = true →
        exec .yield s = .next (finish s (u.takeVerdict .granted))) ∧
      (n ≠ s.own → s.ownGranted = true ∨ u.ownGranted = false → exec .yield s = .next (finish s u)))

/-- A MEMBER that processes a CLAIM checks in order: the latch set (LATCHED), the claimant's entry not MEMBER
(NOT-MEMBER), a record of the claimant in the list (HAS-RECORD), a set code of 0 or above 15 or units above 12
(BAD-CLAIM). The first that holds refuses it and leaves the table. Otherwise a WAITING record with the claimant, set,
units and manoeuvre is appended at the tail and grants are evaluated. The node's own run engine gets the verdict on its
own CLAIM. -/
def Obligations.ClaimIsAdmittedOrRefused : Prop :=
  ∀ (s : State) (n : Node) (c : ClaimMsg) (m : BitVec 8), s.member.mstate = .member → c.set < 256 → c.units < 256 →
    s.headIs .claim n c.payload m →
    let refusal : Option Cause :=
      if s.table.halt.latch ≠ none then some .latched
      else if (s.entry n).state ≠ .member then some .notMember
      else if ∃ r ∈ s.table.claims, r.claimant = n then some .hasRecord
      else if c.set = 0 ∨ 15 < c.set ∨ 12 < c.units then some .badClaim
      else none
    let u : State := { s.popped with table :=
      { claims := evalGrants (s.table.claims ++
          [{ claimant := n, set := ResSet.ofCode c.set, units := c.units, man := c.man, state := .waiting }])
        halt := s.table.halt } }
    (∀ cause, refusal = some cause →
      (n ≠ s.own → exec .claim s = .next (finish s s.popped)) ∧
      (n = s.own → exec .claim s = .next (finish s (s.popped.takeVerdict (.refused cause))))) ∧
    (refusal = none →
      (n ≠ s.own → exec .claim s = .next (finish s u)) ∧
      (n = s.own →
        exec .claim s = .next (finish s (u.takeVerdict (if u.ownGranted = true then .granted else .appended))))) ∧
    ∃ t, exec .claim s = .next t ∧ t.table = (if refusal = none then u.table else s.table) ∧ t.member = s.member

/-- Grant evaluation walks the list once, oldest first. A GRANTED record is passed over; a WAITING one becomes GRANTED
exactly if, at its visit, (a) no GRANTED record names a resource of it, (b) its units with those of every GRANTED record
come to 12 or less, (c) no older WAITING record names a resource of it, (d) its units are 0 or every older WAITING
record has none. Records keep their place and their other fields, and after the walk no WAITING record meets all four.
-/
def Obligations.GrantEvaluationFollowsItsFourConditions : Prop :=
  ∀ l : List ClaimRec,
    (evalGrants l).length = l.length ∧
    (∀ (a b : List ClaimRec) (r : ClaimRec), l = a ++ r :: b →
      ∃ x, (evalGrants l)[a.length]? = some x ∧ { x with state := r.state } = r ∧
        (x.state = .granted ↔ r.state = .granted ∨ mayGrant ((evalGrants l).take a.length) b r)) ∧
    ∀ (a b : List ClaimRec) (r : ClaimRec), evalGrants l = a ++ r :: b → r.state = .waiting → ¬mayGrant a b r

/-- Evaluation, appending a WAITING record of a claimant without one and removing a record keep the laws of a claim
list: one record per claimant, no resource granted twice, at most 12 units granted; and a GRANTED record stays GRANTED.
-/
def Obligations.ClaimListOperationsKeepItsLaws : Prop :=
  ∀ l : List ClaimRec, claimLaws l = true →
    claimLaws (evalGrants l) = true ∧ (∀ r ∈ l, r.state = .granted → r ∈ evalGrants l) ∧
    (∀ n, claimLaws (removeClaim l n) = true ∧ hasClaim (removeClaim l n) n = false ∧
      ∀ r ∈ l, r.claimant ≠ n → r ∈ removeClaim l n) ∧
    ∀ r : ClaimRec, r.state = .waiting → hasClaim l r.claimant = false → claimLaws (l ++ [r]) = true

/-- The lowest MEMBER with a node in its snapshot owed set keeps a SNAPSHOT queued; every other node has none pending that
is not withdrawn. A SNAPSHOT carries the lowest node owed, the body fitting code, the take count, the halt state, state
and role of the eight entries, and the claim list, as they stand at the start. A MEMBER that processes one for another
node owes it none, and a JOINING entry becomes MEMBER, HEARD, AGREE and STALE with its timer at 150 ms; claim list, halt
state and every other entry stay. The subject, in JOIN-WAIT or MEMBER, that finds itself JOINING takes the carried
replica over, with the MEMBER peers HEARD and the last conditions kept, evaluates grants, counts the table frames behind
and becomes MEMBER with a POSTURE pending and its JOIN withdrawn; with a stop pressed it queues HALT if the carried latch
is clear, and none if it is set; one that believed itself MEMBER first ends its run RESYNC in the log, lets its channels
down, withdraws its CLAIM and yields. Found BARRED it leaves with cause FITTING or ROLE-LIMIT; found otherwise it ignores
the frame. That a SNAPSHOT no longer due and the subject's JOIN stay, marked withdrawn, while an attempt of them is on
the line is the model's reading (assumption 7). -/
def Obligations.SnapshotAdmitsItsSubject : Prop :=
  (∀ old s : State,
    let t := finish old s
    (t.pends .snapshot ↔ t.member.mstate = .member ∧ (t.entry t.own).state = .member ∧
      (∀ n, (t.entry n).state = .member → t.own ≤ n) ∧ ∃ n : Fin 8, t.member.owed[n] = true) ∧
    ∀ (x : Node) (fit : Fin 8), s.member.owed[x] = true → (∀ n : Fin 8, s.member.owed[n] = true → x ≤ n) →
      s.member.bodyFit = some fit →
      s.payloadOf .snapshot = SnapMsg.payload
        { subject := x, fit := fit, take := s.member.takeCount, halt := s.table.halt
          roster := Vector.ofFn fun i : Fin 8 => ((s.entry i).state, (s.entry i).role), claims := s.table.claims }) ∧
  ∀ (s : State) (n : Node) (p : List Byte) (m : BitVec 8) (w : SnapMsg), s.headIs .snapshot n p m →
    readSnapPayload p = some w →
    let count : BitVec 8 := w.take + 1 + BitVec.ofNat 8 (s.link.rx.tail.filter fun r => r.kind.isTable).length
    (s.member.mstate = .member → w.subject ≠ s.own →
      ∃ t, exec .snapshot s = .next t ∧
        t.entry w.subject =
          (if (s.entry w.subject).state = .joining then
            { s.entry w.subject with
              state := .member, heard := true, agree := true, fresh := false, silence := some 150 }
          else s.entry w.subject) ∧
        (∀ k, k ≠ w.subject → t.entry k = s.entry k) ∧
        (∀ k : Fin 8, t.member.owed[k] = if k = w.subject then false else s.member.owed[k]) ∧
        t.table = s.table ∧ t.member.bodyFit = s.member.bodyFit ∧ t.member.takeCount = s.member.takeCount) ∧
    (s.member.mstate = .member ∨ s.member.mstate = .joinWait → w.subject = s.own →
      ((w.roster[s.own]).1 = .joining →
        ∃ t, exec .snapshot s = .next t ∧ t.member.mstate = .member ∧
          (∀ k : Fin 8, (t.entry k).state = (if k = s.own then .member else (w.roster[k]).1) ∧
            (t.entry k).role = (w.roster[k]).2 ∧ (t.entry k).agree = true ∧ (t.entry k).fresh = false ∧
            (t.entry k).silence = (if k ≠ s.own ∧ (w.roster[k]).1 = .member then some 150 else none) ∧
            (t.entry k).heard = ((s.entry k).heard || (k != s.own && (w.roster[k]).1 == .member)) ∧
            (t.entry k).last = (s.entry k).last) ∧
          t.member.takeCount = count ∧ t.member.bodyFit = some w.fit ∧
          (∀ k : Fin 8, t.member.owed[k] = (k != s.own && (w.roster[k]).1 == .joining)) ∧
          t.table.halt = w.halt ∧ t.table.claims = evalGrants w.claims ∧ t.post.period = some 50 ∧
          t.pends .posture ∧
          (∀ e ∈ t.link.tx, e.frame = .join → s.link.line.isSending .join none = true ∧ e.withdrawn = true) ∧
          (s.stopPressed = true → w.halt.latch = none →
            t.pends (.halt (if s.input 0 = true then .panel else .pendant))) ∧
          (s.stopPressed = false ∨ w.halt.latch ≠ none →
            ∀ e ∈ t.link.tx, e.frame.kind = .halt → e ∈ s.link.tx) ∧
          (s.member.mstate = .member → t.runs.run = none ∧ t.steps.cur = none ∧ t.pends .yield ∧
            t.log = (s.runRecordsEnded .resync).log ∧
            (∀ e ∈ t.link.tx, e.frame.kind = .claim → s.link.line.isSending .claim none = true ∧ e.withdrawn = true) ∧
            ∀ x, (t.chans.get x).state.letDown = true ∧
              ((t.chans.get x).state = .faulted ↔ (s.chans.get x).state = .faulted))) ∧
      ((w.roster[s.own]).1 = .barred →
        let u : State := { s with member := { s.member with takeCount := count } }
        let v : State :=
          if s.member.mstate = .member then
            { u with runs := { s.runs with run := none }, log := (s.runRecordsEnded .resync).log }
          else u
        ∃ t, exec .snapshot s = .next t ∧
          hasLeft v t .barred (if w.fit = s.straps.fit then .roleLimit else .fitting)) ∧
      ((w.roster[s.own]).1 ≠ .joining → (w.roster[s.own]).1 ≠ .barred →
        exec .snapshot s = .next (finish s s.popped)))

/-- In LISTEN and JOIN-WAIT a JOIN taken while no entry is MEMBER founds the body: the joiner is the one MEMBER, claim
list and halt are empty and clear, its fitting code is the body's, the take count is 1 and what stands behind; the
joiner itself becomes MEMBER with a POSTURE pending and its JOIN withdrawn, and queues HALT if its stop is pressed. With
a MEMBER in the roster the frame is removed, the joiner's entry becomes JOINING, and nothing else changes. That the
founder's JOIN stays, marked withdrawn, while an attempt of it is on the line is the model's reading (assumption 7). -/
def Obligations.JoinFoundsTheBody : Prop :=
  ∀ (s : State) (n : Node) (j : JoinMsg) (m : BitVec 8),
    (s.member.mstate = .listen ∨ s.member.mstate = .joinWait) → s.headIs .join n j.payload m →
    (n = s.own → j.serial = s.serial) →
    ((∀ k, (s.entry k).state ≠ .member) →
      ∃ t, exec .join s = .next t ∧ (t.entry n).state = .member ∧ (t.entry n).role = some j.role ∧
        (t.entry n).agree = true ∧ (t.entry n).fresh = false ∧ (n ≠ s.own → (t.entry n).heard = true) ∧
        (t.entry n).silence = (if n = s.own then none else some 150) ∧
        (∀ k, k ≠ n → (t.entry k).state = .unknown ∧ (t.entry k).role = none ∧ (t.entry k).silence = none) ∧
        t.table = { claims := [], halt := { latch := none, count := 0 } } ∧ t.member.bodyFit = some j.fit ∧
        t.member.takeCount = 1 + BitVec.ofNat 8 (s.link.rx.tail.filter fun r => r.kind.isTable).length ∧
        (∀ k : Fin 8, t.member.owed[k] = false) ∧
        t.member.mstate = (if n = s.own then .member else s.member.mstate) ∧
        (n = s.own → t.pends .posture ∧ t.post.period = some 50 ∧
          (∀ e ∈ t.link.tx, e.frame = .join → s.link.line.isSending .join none = true ∧ e.withdrawn = true) ∧
          (s.stopPressed = true → t.pends (.halt (if s.input 0 = true then .panel else .pendant))) ∧
          (s.stopPressed = false → ∀ e ∈ t.link.tx, e.frame.kind = .halt → e ∈ s.link.tx))) ∧
    ((∃ k, (s.entry k).state = .member) →
      exec .join s = .next (finish s
        (s.popped.setEntry n { s.entry n with state := .joining, role := some j.role, silence := none })))

/-- A MEMBER that processes a JOIN ends the membership of a joiner that was MEMBER or JOINING, whose record is removed
with grants evaluated. The joiner becomes BARRED if its fitting code is not the body's, or if its role is taken (one
CAB, LIFT and BEACON, two HATCH of a side, among the other MEMBER and JOINING entries), and JOINING otherwise, with the
role carried; it is owed a snapshot. The node's own run engine gets REMOVED where its own record is removed by a JOIN of
its own, and GRANTED where the evaluation grants its own record. -/
def Obligations.JoinIsAdmittedOrBarred : Prop :=
  ∀ (s : State) (n : Node) (j : JoinMsg) (m : BitVec 8), s.member.mstate = .member → s.headIs .join n j.payload m →
    (n = s.own → j.serial = s.serial) →
    let holders := (allNodes.filter fun k => decide (k ≠ n ∧ ((s.entry k).state = .member ∨ (s.entry k).state = .joining) ∧
      (s.entry k).role = some j.role)).length
    let limit := match j.role with | .hatch _ => 2 | .cab | .lift | .beacon => 1
    ∃ t, exec .join s = .next t ∧
      t.entry n =
        { s.entry n with
          state := if s.member.bodyFit ≠ some j.fit ∨ limit ≤ holders then .barred else .joining
          role := some j.role, silence := none } ∧
      (∀ k, k ≠ n → t.entry k = s.entry k) ∧
      (∀ k : Fin 8, t.member.owed[k] = if k = n then true else s.member.owed[k]) ∧
      t.table.halt = s.table.halt ∧
      t.table.claims =
        (if ((s.entry n).state = .member ∨ (s.entry n).state = .joining) ∧ ∃ r ∈ s.table.claims, r.claimant = n then
          evalGrants (s.table.claims.filter fun r => r.claimant != n)
        else s.table.claims) ∧
      t.member.mstate = .member ∧
      let u : State := { s.popped with table := t.table }
      let ends := ((s.entry n).state = .member ∨ (s.entry n).state = .joining) ∧ ∃ r ∈ s.table.claims, r.claimant = n
      let v : State :=
        if n = s.own then (if ends then u.takeVerdict .removedByJoin else u)
        else if s.ownGranted = false ∧ u.ownGranted = true then u.takeVerdict .granted
        else u
      exec .join s = .next (finish s ((v.setEntry n (t.entry n)).setOwed n true))

/-- A JOIN or a POSTURE with the node's own number and another serial, processed in LISTEN, JOIN-WAIT or MEMBER, sends
the node to BARRED with cause DUPLICATE. -/
def Obligations.DuplicateNumberBars : Prop :=
  ∀ (s : State) (m : BitVec 8),
    (s.member.mstate = .listen ∨ s.member.mstate = .joinWait ∨ s.member.mstate = .member) →
    (∀ j : JoinMsg, j.serial ≠ s.serial → s.headIs .join s.own j.payload m →
      ∃ t, exec .join s = .next t ∧ hasLeft s t .barred .duplicate ∧ keptOnLeaving s t) ∧
    ∀ q : PostureMsg, q.sum.inRange = true → q.serial ≠ s.serial → s.headIs .posture s.own q.payload m →
      ∃ t, exec .posture s = .next t ∧ hasLeft s t .barred .duplicate ∧ keptOnLeaving s t

/-- A MEMBER that processes a peer's POSTURE stores its conditions, run summary and halt indication; a MEMBER peer is
FRESH and AGREE exactly if the carried take count is the one noted at the take, be the count set anew since (the model's
reading, assumption 45); for an ABSENT peer an EVICT is queued; and the node isolates with cause DIVERGED if more MEMBER peers are then marked DISAGREE than AGREE. In LISTEN and
JOIN-WAIT the sender and every node of the carried member set become MEMBER, the node's own entry too, without a silence
timer (the model's choice, assumption 25). The node's own POSTURE, with its number and its serial, changes no entry; after
it too a MEMBER counts the marks, and isolates if diverged (the model's reading, assumption 24). -/
def Obligations.PostureUpdatesTheRoster : Prop :=
  (∀ (s : State) (q : PostureMsg) (m : BitVec 8), q.sum.inRange = true → q.serial = s.serial →
    s.headIs .posture s.own q.payload m →
    let marks (v : Bool) := (allNodes.filter fun k =>
      decide (k ≠ s.own ∧ (s.entry k).state = .member ∧ (s.entry k).agree = v)).length
    (s.member.mstate ≠ .member ∨ marks false ≤ marks true → exec .posture s = .next (finish s s.popped)) ∧
    (s.member.mstate = .member → marks true < marks false →
      ∃ t, exec .posture s = .next t ∧ hasLeft s t .isolated .diverged ∧ keptOnLeaving s t)) ∧
  ∀ (s : State) (n : Node) (q : PostureMsg) (m : BitVec 8), n ≠ s.own → q.sum.inRange = true →
    s.headIs .posture n q.payload m →
    let e : Entry := { s.entry n with last := some { conds := q.conds, sum := q.sum, halted := q.halted } }
    let e' : Entry := if e.state = .member then { e with agree := q.take == m, fresh := true } else e
    let marks (v : Bool) := (allNodes.filter fun k => decide (k ≠ s.own) &&
      (if k = n then decide (e'.state = .member ∧ e'.agree = v)
        else decide ((s.entry k).state = .member ∧ (s.entry k).agree = v))).length
    (s.member.mstate = .member → marks false ≤ marks true →
      ∃ t, exec .posture s = .next t ∧ t.entry n = e' ∧ (∀ k, k ≠ n → t.entry k = s.entry k) ∧ t.table = s.table ∧
        t.member.mstate = .member ∧ (e.state = .absent → t.pends (.evict n))) ∧
    (s.member.mstate = .member → marks true < marks false →
      ∃ t, exec .posture s = .next t ∧ hasLeft s t .isolated .diverged ∧ keptOnLeaving s t) ∧
    (s.member.mstate = .listen ∨ s.member.mstate = .joinWait →
      ∃ t, exec .posture s = .next t ∧
        (∀ k, k ≠ n → t.entry k =
          if q.members.getLsbD k.val = true ∧ (s.entry k).state ≠ .member then
            { s.entry k with
              state := .member, agree := true, fresh := false, silence := if k = s.own then none else some 150 }
          else s.entry k) ∧
        t.entry n =
          (if e.state = .member then { e with fresh := true }
          else { e with state := .member, agree := true, fresh := true, silence := some 150 }) ∧
        t.table = s.table ∧ t.member.mstate = s.member.mstate)

/-- A MEMBER that processes a PROBE with itself as target queues a REPLY to the sender: the status summary for STATUS,
and for LOG the record at the index, counted from the oldest, or none; a PROBE for another node has no effect. One that
processes a REPLY meant for it, from the target of its relay slot and to the same request, ends the relay with the lines
of the content; any other REPLY has no effect. That the answer is typed lines, and that they name the true conditions by
position and none where the entry has no role, is the model's choice (assumptions 16 and 34). -/
def Obligations.ProbeAndReplyServeTheRelay : Prop :=
  (∀ (s : State) (n : Node) (q : ProbeMsg) (m : BitVec 8), s.member.mstate = .member → s.headIs .probe n q.payload m →
    let content : ReplyContent :=
      match q.req with
      | .status =>
        .summary
          { mstate := s.member.mstate, cause := s.member.cause, conds := s.condWord, sum := s.summary
            halt := s.table.halt, take := s.member.takeCount }
      | .log i => match s.log.slots[i.val]? with | some x => .record x.data | none => .none
    (q.target = s.own → exec .probe s = .next (finish s (s.popped.queue (.reply n q.req content)))) ∧
    (q.target ≠ s.own → exec .probe s = .next (finish s s.popped))) ∧
  ∀ (s : State) (n : Node) (p : List Byte) (q : ReplyMsg) (m : BitVec 8), s.member.mstate = .member →
    s.headIs .reply n p m → readReplyPayload p = some q →
    let role := (s.entry n).role.map RoleSide.role
    let lines : List AnswerLine :=
      match q.content with
      | .none => [.none, .ok]
      | .summary x =>
        [.state x.mstate x.cause, .take x.take, .cond (trueConds role x.conds), .run x.sum none, .halt x.halt, .ok]
      | .record r => [.record (match q.req with | .log i => i.val | .status => 0) r, .ok]
    (s.port.relay = some { target := n, req := q.req } ∧ q.requester = s.own →
      exec .reply s = .next (finish s
        { s.popped with port := { s.port with answer := .sending lines, relay := none, relayTimer := none } })) ∧
    (s.port.relay ≠ some { target := n, req := q.req } ∨ q.requester ≠ s.own →
      exec .reply s = .next (finish s s.popped))

/-! ## Timers of the membership unit -/

/-- LISTEN's end queues a JOIN in JOIN-WAIT; a JOIN repeat queues it again; the isolation rest ends in LISTEN with its
timer at 450 ms and the roster unchanged; a MEMBER whose peer falls silent marks it SILENT and queues an EVICT of it,
and a node with a provisional roster sets it UNKNOWN with no role. The command of a timer that does not run changes
nothing, the model's choice (assumption 3). -/
def Obligations.MembershipTimersRunOut : Prop :=
  ∀ s : State,
    (s.member.mstate = .listen → s.member.listenTimer ≠ none →
      exec .listenTimer s = .next (finish s (State.queue
        { s with member := { s.member with mstate := .joinWait, listenTimer := none } } .join))) ∧
    (s.member.mstate = .joinWait → s.member.joinTimer ≠ none →
      exec .joinRepeatTimer s = .next (finish s (State.queue
        { s with member := { s.member with joinTimer := none } } .join))) ∧
    (s.member.mstate = .isolated → s.member.restTimer ≠ none →
      exec .isolationRestTimer s = .next (finish s
        { s with
          member := { s.member with mstate := .listen, listenTimer := some 450, restTimer := none }
          link := { s.link with footing := false } })) ∧
    (∀ n, s.member.mstate = .member → (s.entry n).silence ≠ none →
      ∃ t, exec (.silenceTimer n) s = .next t ∧
        t.entry n = { s.entry n with heard := false, silence := none } ∧ (∀ k, k ≠ n → t.entry k = s.entry k) ∧
        t.pends (.evict n) ∧ t.table = s.table) ∧
    (∀ n, (s.member.mstate = .listen ∨ s.member.mstate = .joinWait) → (s.entry n).silence ≠ none →
      ∃ t, exec (.silenceTimer n) s = .next t ∧
        t.entry n = { s.entry n with state := .unknown, role := none, silence := none } ∧
        (∀ k, k ≠ n → t.entry k = s.entry k) ∧ t.table = s.table) ∧
    (s.member.listenTimer = none → exec .listenTimer s = .next (finish s s)) ∧
    (s.member.joinTimer = none → exec .joinRepeatTimer s = .next (finish s s)) ∧
    (s.member.restTimer = none → exec .isolationRestTimer s = .next (finish s s)) ∧
    ∀ n, (s.entry n).silence = none → exec (.silenceTimer n) s = .next (finish s s)

/-! ## Lines -/

/-- A raw change restarts the input's filter timer, 5 ms on a stop loop and 20 ms on any other input, or stops it where
the level is back at the filtered value; an open stop loop and a closed contact of any other input are active. The
filtered value waits for the filter timer's own command. A contact already in the position named, and the command of a
filter timer that does not run, change nothing, the model's choice (assumption 3). -/
def Obligations.RawChangesRunTheFilter : Prop :=
  ∀ (s : State) (i : Fin 16) (closed : Bool),
    let x := s.lines.inputs[i]
    let stopLoop := i = 0 ∨ (i = 9 ∧ s.straps.role = .lift)
    let level := if stopLoop then !closed else closed
    (x.closed ≠ closed →
      let y : Input :=
        { closed := closed, active := x.active
          timer := if level = x.active then none else some (if stopLoop then 5 else 20) }
      exec (.rawInputChange i closed) s =
        .next { s with lines := { s.lines with inputs := s.lines.inputs.set i y } }) ∧
    (x.closed = closed → exec (.rawInputChange i closed) s = .next s) ∧
    (x.timer ≠ none →
      ∃ t, exec (.inputFilterExpiry i) s = .next t ∧ t.lines.inputs[i].timer = none ∧
        t.lines.inputs[i].active = (if stopLoop then !x.closed else x.closed) ∧
        t.lines.inputs[i].closed = x.closed ∧
        ∀ j : Fin 16, j ≠ i → t.lines.inputs[j] = s.lines.inputs[j]) ∧
    (x.timer = none → exec (.inputFilterExpiry i) s = .next (finish s s))

/-- The press edge of a stop loop lets every channel of the node down in the same event, whatever its membership state;
a MEMBER also has a HALT with that stop's source pending, and its CLEAR leaves, at once or when the attempt on the line
ends untaken. -/
def Obligations.StopPressLetsTheNodeDown : Prop :=
  ∀ (s : State) (i : Fin 16), (i = 0 ∨ (i = 9 ∧ s.straps.role = .lift)) → s.lines.inputs[i].timer ≠ none →
    s.lines.inputs[i].closed = false →
    ∃ t, exec (.inputFilterExpiry i) s = .next t ∧ t.stopPressed = true ∧
      (∀ c, (t.chans.get c).state.letDown = true) ∧
      (s.member.mstate = .member →
        t.pends (.halt (if i = 0 then .panel else .pendant)) ∧
        ∀ e ∈ t.link.tx, e.frame.kind = .clear → s.link.line.isSending .clear none = true ∧ e.withdrawn = true)

/-- An ACK press edge clears every output fault latch; returns every FAULTED channel to CLOSED if the run stack is
empty, and none otherwise; returns a FAILED group without demand to DARK; and queues CLEAR exactly if the node is
MEMBER, the latch is set, no stop is pressed, and the node is the originator, or is the CAB while the originator is not
MEMBER. Under every other command but the two resets a FAULTED channel stays FAULTED. -/
def Obligations.AckIsReadByItsFourReaders : Prop :=
  (∀ s : State, s.lines.inputs[(1 : Fin 16)].timer ≠ none → s.lines.inputs[(1 : Fin 16)].closed = true →
    ∃ t, exec (.inputFilterExpiry 1) s = .next t ∧
      (∀ o : Fin 12, t.lines.outLatch[o] = false) ∧
      (s.runs.run = none → ∀ c, t.chans.get c =
        if (s.chans.get c).state = .faulted then { state := .closed, held := false, settle := none }
        else s.chans.get c) ∧
      (s.runs.run ≠ none → ∀ c, (s.chans.get c).state = .faulted → (t.chans.get c).state = .faulted) ∧
      (s.beaconLaws = true → ∀ g, (s.beacon.get g).state = .failed →
        (t.beacon.get g).state = if (s.beacon.get g).demanded = true then .failed else .dark) ∧
      let clears := s.member.mstate = .member ∧ s.stopPressed = false ∧
        ∃ o, s.table.halt.latch = some o ∧
          (o = s.own ∨ (s.straps.role = .cab ∧ (s.entry o).state ≠ .member))
      (clears → t.pends .clear) ∧ (¬clears → ∀ e ∈ t.link.tx, e.frame = .clear → e ∈ s.link.tx)) ∧
  ∀ (c : Instr) (s t : State) (x : Chan), exec c s = .next t → (s.chans.get x).state = .faulted →
    (∀ p, c ≠ .powerOnReset p) → (∀ p, c ≠ .externalReset p) → c ≠ .inputFilterExpiry 1 →
    (t.chans.get x).state = .faulted

/-- On LIFT, FLOOR-SW becoming active sets the height count to 0 and BED-SW to the bed stroke. A STROKE pulse while the
count is a number adds 1 while the LIFT channel is DRIVING UP and subtracts 1 while it is DRIVING DOWN, held between 0
and the bed stroke plus 63; in any other state, and while the count is UNKNOWN, it changes nothing. -/
def Obligations.HeightCountFollowsThePlatform : Prop :=
  ∀ s : State,
    (s.straps.role = .lift → s.lines.inputs[(12 : Fin 16)].timer ≠ none →
      s.lines.inputs[(12 : Fin 16)].closed = true →
      ∃ t, exec (.inputFilterExpiry 12) s = .next t ∧ t.lines.height = some 0) ∧
    (s.straps.role = .lift → s.lines.inputs[(13 : Fin 16)].timer ≠ none →
      s.lines.inputs[(13 : Fin 16)].closed = true →
      ∃ t, exec (.inputFilterExpiry 13) s = .next t ∧ t.lines.height = some s.fitRow.bed) ∧
    (∀ h, s.straps.role = .lift → s.lines.height = some h →
      let top := s.fitRow.bed + 63
      let moved : Nat :=
        if s.chans.lift.state = .driving .up then (if top < h + 1 then top else h + 1)
        else if s.chans.lift.state = .driving .down then (if top < h - 1 then top else h - 1)
        else h
      exec .strokePulse s = .next (finish s { s with lines := { s.lines with height := some moved } })) ∧
    (s.straps.role ≠ .lift ∨ s.lines.height = none → exec .strokePulse s = .next (finish s s))

/-- The held-request detector of LIFT, by its table. ENABLE and exactly one function becoming active hand HELD-BEGIN to
the run engine; a held request ends with HELD-END as ENABLE or its function opens, which arms the detector again, or as
another function closes, which spends it; a spent detector is armed once ENABLE or every function is open. -/
def Obligations.HeldDetectorFollowsItsTable : Prop :=
  ∀ (s : State) (i : Fin 16), s.straps.role = .lift → 2 ≤ i.val → i.val ≤ 8 → s.lines.inputs[i].timer ≠ none →
    let x := s.lines.inputs[i]
    let u := s.setInput i { x with active := x.closed, timer := none }
    let enabled := u.input 2 = true
    (x.closed = true →
      (∀ f, s.lines.held = .armed → enabled → u.activeFns = [f] →
        exec (.inputFilterExpiry i) s = .next (finish s ((u.setHeld (.held f)).heldBegin f))) ∧
      (s.lines.held = .armed → ¬(enabled ∧ ∃ f, u.activeFns = [f]) →
        exec (.inputFilterExpiry i) s = .next (finish s u)) ∧
      (∀ f, s.lines.held = .held f → i ≠ 2 → i ≠ f.input →
        exec (.inputFilterExpiry i) s = .next (finish s ((u.setHeld .spent).heldEnd f))) ∧
      (s.lines.held = .spent → exec (.inputFilterExpiry i) s = .next (finish s u))) ∧
    (x.closed = false →
      (∀ f, s.lines.held = .held f → i = 2 ∨ i = f.input →
        exec (.inputFilterExpiry i) s = .next (finish s ((u.setHeld .armed).heldEnd f))) ∧
      (s.lines.held = .armed → i ≠ 2 → enabled → (∃ f, u.activeFns = [f]) →
        exec (.inputFilterExpiry i) s = .next (finish s (u.setHeld .spent))) ∧
      (s.lines.held = .armed → i = 2 ∨ ¬enabled ∨ (∀ f, u.activeFns ≠ [f]) →
        exec (.inputFilterExpiry i) s = .next (finish s u)) ∧
      (s.lines.held = .spent → u.input 2 = false ∨ u.activeFns = [] →
        exec (.inputFilterExpiry i) s = .next (finish s (u.setHeld .armed))) ∧
      (s.lines.held = .spent → enabled → u.activeFns ≠ [] →
        exec (.inputFilterExpiry i) s = .next (finish s u)))

/-- On HATCH a press edge of OPEN (IN2, IN4) or CLOSE (IN3, IN5) sets its latch and, with both clear, starts the window
at 50 ms. At the window's end the take clears both: both set is refused PANEL-CONFLICT in the log, one set is a request.
A request on an IDLE run engine of a node that is not MEMBER is refused NOT-MEMBER, with the latch set LATCHED, and
starts a run otherwise, in CLAIMING with the claim wait at 10,000 ms, and with the CLAIM of its manoeuvre (PUMP and the
zone of the node's side, 11 units for OPEN and 9 for CLOSE) pending where no own CLAIM or YIELD is outstanding. -/
def Obligations.HatchRequestsPassTheWindow : Prop :=
  ∀ s : State, s.straps.role = .hatch →
    (∀ (i j : Fin 16) (isOpen : Bool),
      (i, j, isOpen) ∈ [((2 : Fin 16), (4 : Fin 16), true), (4, 2, true), (3, 5, false), (5, 3, false)] →
      s.lines.inputs[i].timer ≠ none → s.lines.inputs[i].closed = true → s.input j = false →
      ∃ t, exec (.inputFilterExpiry i) s = .next t ∧
        t.lines.openLatch = (s.lines.openLatch || isOpen) ∧ t.lines.closeLatch = (s.lines.closeLatch || !isOpen) ∧
        t.lines.window =
          if s.lines.openLatch = false ∧ s.lines.closeLatch = false then some 50 else s.lines.window) ∧
    (s.lines.window ≠ none →
      let u : State := { s with lines := { s.lines with openLatch := false, closeLatch := false, window := none } }
      (s.lines.openLatch = true → s.lines.closeLatch = true →
        exec .requestWindowTimer s = .next (finish s (u.writeRequest none .refused .panelConflict))) ∧
      (s.lines.openLatch = true → s.lines.closeLatch = false →
        exec .requestWindowTimer s = .next (finish s (u.touchRequest .openHatch))) ∧
      (s.lines.openLatch = false → s.lines.closeLatch = true →
        exec .requestWindowTimer s = .next (finish s (u.touchRequest .closeHatch)))) ∧
    ∀ m, s.runs.run = none →
      (s.member.mstate ≠ .member → s.touchRequest m = s.writeRequest (some m) .refused .notMember) ∧
      (s.member.mstate = .member → s.table.halt.latch ≠ none →
        s.touchRequest m = s.writeRequest (some m) .refused .latched) ∧
      (s.member.mstate = .member → s.table.halt.latch = none →
        ∃ r, (s.touchRequest m).runs.run = some r ∧ r.phase = .claiming ∧ r.base.man = m ∧ r.base.idx = 0 ∧
          r.base.num = s.runs.counter + 1 ∧ r.base.left = (m.steps s.straps.side).length ∧ r.nests = [] ∧
          r.nestCount = 0 ∧ r.leadServed = false ∧
          r.mode = (if s.outstanding .claim = true ∨ s.outstanding .yield = true then .deferred else .queued) ∧
          (s.touchRequest m).runs.claimWait = some 10000 ∧ (s.touchRequest m).runs.counter = s.runs.counter + 1) ∧
      (s.member.mstate = .member → s.table.halt.latch = none → m = .openHatch ∨ m = .closeHatch →
        let set : ResSet :=
          { pump := true, rear := false, kerb := s.straps.side == .kerb, road := s.straps.side == .road }
        let units := if m = .openHatch then 11 else 9
        (s.touchRequest m).link =
          if s.outstanding .claim = true ∨ s.outstanding .yield = true then s.link
          else { s.link with
            tx := s.link.tx ++ [{ frame := .claim set units m, attempts := 0, withdrawn := false }] })

/-- On CAB a ROAD-SPEED pulse sets STANDSTILL false and restarts the timer at 2,000 ms, and the timer's end sets it true
until the next pulse; both resets start the timer with STANDSTILL false. On other roles the pulse is not read and
STANDSTILL is not among the conditions. No other command changes either. -/
def Obligations.StandstillFollowsThePulses : Prop :=
  (∀ r : Role, r ≠ .cab → Cond.standstill ∉ condsOf (some r)) ∧
  (∀ s : State,
    (s.straps.role = .cab →
      exec .roadSpeedPulse s = .next (finish s
        { s with lines := { s.lines with standstill := false, standTimer := some 2000 } }) ∧
      (s.lines.standTimer ≠ none →
        exec .standstillTimer s = .next (finish s
          { s with lines := { s.lines with standstill := true, standTimer := none } }))) ∧
    (s.straps.role ≠ .cab → exec .roadSpeedPulse s = .next (finish s s)) ∧
    ∀ p, p.role = 0 → ∃ t u, exec (.powerOnReset p) s = .next t ∧ exec (.externalReset p) s = .next u ∧
      t.lines.standstill = false ∧ t.lines.standTimer = some 2000 ∧ u.lines.standstill = false ∧
      u.lines.standTimer = some 2000) ∧
  ∀ (c : Instr) (s t : State), exec c s = .next t → c ≠ .roadSpeedPulse → c ≠ .standstillTimer →
    (∀ p, c ≠ .powerOnReset p) → (∀ p, c ≠ .externalReset p) →
    t.lines.standstill = s.lines.standstill ∧ t.lines.standTimer = s.lines.standTimer

/-- A driver fault on an output of a channel takes the channel to FAULTED with its settle timer stopped and any held
OPEN cancelled; on a lamp output it takes a group that is DARK, LIT or TAIL, and not in its test slot, to FAILED; on any
other output, one with no meaning in the role included, it sets the output's fault latch, as the model reads R70
(assumption 18). An over-current is sensed at any time, and an open load while the output drives, so that an open load
at an output that is off changes nothing: the model's reading too (assumption 19). -/
def Obligations.DriverFaultsReachTheirOutputs : Prop :=
  ∀ (s : State) (o : Fin 12) (k : DriverFault),
    (s.output o = .off → k = .openLoad →
      exec (.channelDriverFault o k) s = .next (finish s s) ∧ exec (.lampFault o k) s = .next (finish s s) ∧
        exec (.outputFaultLatch o k) s = .next (finish s s)) ∧
    (k = .overCurrent ∨ s.output o ≠ .off →
      (∀ c, s.straps.role.chanOfOutput o = some c →
        exec (.channelDriverFault o k) s = .next (finish s
          { s with chans := s.chans.set c { state := .faulted, held := false, settle := none } })) ∧
      (∀ g, s.straps.role.groupOfOutput o = some g →
        let x : GroupRec := { state := .failed, timer := none, demanded := (s.beacon.get g).demanded }
        let acts := ((s.beacon.get g).state = .dark ∨ (s.beacon.get g).state = .lit ∨ (s.beacon.get g).state = .tail) ∧
          s.beacon.test ≠ .slot g
        (acts → exec (.lampFault o k) s = .next (finish s { s with beacon := s.beacon.set g x })) ∧
          (¬acts → exec (.lampFault o k) s = .next (finish s s))) ∧
      (s.straps.role.chanOfOutput o = none → s.straps.role.groupOfOutput o = none →
        exec (.outputFaultLatch o k) s = .next (finish s
          { s with lines := { s.lines with outLatch := s.lines.outLatch.set o true } })))

/-! ## Channels, steps and runs -/

/-- The command table of a channel. OPEN is taken in CLOSED, and held in RESTING; DRIVE in OPEN and HOLDING, and in
DRIVING with the same direction; HOLD in DRIVING, OPEN and HOLDING; RELIEVE in every state, cancelling a held OPEN.
Every other command is refused, and a refused command leaves the channel as it was. A RESTING channel that is relieved
comes to stay CLOSED. -/
def Obligations.ChannelTakesCommandsByItsTable : Prop :=
  ∀ c : ChanRec,
    (c.state = .closed → ∃ x, c.command .openCmd = some x ∧ x.state = .opening) ∧
    (c.state = .resting → c.command .openCmd = some { c with held := true }) ∧
    (c.state ≠ .closed → c.state ≠ .resting → c.command .openCmd = none) ∧
    (∀ d, c.state = .opened ∨ c.state = .holding → ∃ x, c.command (.drive d) = some x ∧ x.state = .driving d) ∧
    (∀ d, c.state = .driving d → c.command (.drive d) = some c) ∧
    (∀ d, c.state ≠ .opened → c.state ≠ .holding → c.state ≠ .driving d → c.command (.drive d) = none) ∧
    (∀ d, c.state = .driving d → ∃ x, c.command .hold = some x ∧ x.state = .holding) ∧
    (c.state = .opened ∨ c.state = .holding → c.command .hold = some c) ∧
    ((∀ d, c.state ≠ .driving d) → c.state ≠ .opened → c.state ≠ .holding → c.command .hold = none) ∧
    ((∃ d, c.state = .driving d) ∨ c.state = .opening ∨ c.state = .opened ∨ c.state = .holding →
      ∃ x, c.command .relieve = some x ∧ x.state = .relieving) ∧
    (c.state = .resting → c.command .relieve = some { c with held := false }) ∧
    (c.state = .closed ∨ c.state = .relieving ∨ c.state = .faulted → c.command .relieve = some c) ∧
    (c.state = .resting → c.settle ≠ none →
      ∃ x, c.command .relieve = some x ∧ x.settled = { state := .closed, held := false, settle := none }) ∧
    ∀ (s : State) (x : Chan) (cmd : ChanCmd), (s.chans.get x).command cmd = none → s.command x cmd = s

/-- The settle timer takes OPENING to OPEN, RELIEVING to RESTING with 80 ms, and RESTING to CLOSED, or with a held OPEN
to OPENING with 60 ms and the mark clear; that the fence of another step does not read the CLOSED it passes through is the
model's choice (assumption 50). OPENING is entered with 60 ms and RELIEVING with 120 ms. -/
def Obligations.SettleTimersMoveTheChannelOn : Prop :=
  (∀ (s : State) (c : Chan), (s.chans.get c).settle ≠ none →
    let move (x : ChanRec) := exec (.settleTimer c) s = .next (finish s { s with chans := s.chans.set c x })
    ((s.chans.get c).state = .opening → move { state := .opened, held := false, settle := none }) ∧
    ((s.chans.get c).state = .relieving → move { state := .resting, held := false, settle := some 80 }) ∧
    ((s.chans.get c).state = .resting → (s.chans.get c).held = false →
      move { state := .closed, held := false, settle := none }) ∧
    ((s.chans.get c).state = .resting → (s.chans.get c).held = true →
      move { state := .opening, held := false, settle := some 60 })) ∧
  ∀ (x y : ChanRec) (cmd : ChanCmd), x.command cmd = some y → x.state ≠ y.state →
    (y.state = .opening → y.settle = some 60) ∧ (y.state = .relieving → y.settle = some 120) ∧
      (y.state ≠ .opening → y.state ≠ .relieving → y.settle = none)

/-- What the run engine does with a verdict. CLAIMING and QUEUED, GRANTED starts the run: RUNNING, mode HELD, step 1 in
ARMING, claim wait stopped, a CLAIM-PHASE record DONE and then a STEP record IN-PROGRESS; REFUSED ends it with outcome
REFUSED and the cause; APPENDED does nothing. CLAIMING and DEFERRED, and IDLE, an APPENDED or GRANTED record is yielded
unless a YIELD is outstanding, and REFUSED and REMOVED are ignored. RUNNING or PAUSED, REMOVED ends it FAILED with
CLAIM-LOST, and REFUSED is ignored. ENDING, nothing. -/
def Obligations.VerdictsReachTheRunEngine : Prop :=
  ∀ s : State,
    (∀ r, s.runs.run = some r → r.phase = .claiming → r.mode = .queued → r.nests = [] →
      let t := s.takeVerdict .granted
      let granted : LogRec :=
        { kind := .claimPhase, run := r.base.num, depth := 0, man := some r.base.man, idx := none, outcome := .done
          cause := none, retries := 0, startTag := r.claimTag, endTag := some s.log.tag, height := none }
      let first : LogRec :=
        { kind := .step, run := r.base.num, depth := 0, man := some r.base.man, idx := some 1, outcome := .inProgress
          cause := none, retries := 0, startTag := s.log.tag, endTag := none, height := none }
      (t.runs = { s.runs with
          run := some { r with
            mode := .held, phase := .running, runTag := some s.log.tag, base := { r.base with idx := 1 } }
          claimWait := none } ∧
        (∃ c, t.steps.cur = some c ∧ c.state = .arming ∧ c.testSkip = true) ∧ t.steps.retries = 0 ∧
        t.steps.driveTime = 0 ∧ t.log = ((s.writeRec granted).writeRec first).log ∧ t.log.youngest = some first) ∧
      (∀ c, ∃ q, (s.takeVerdict (.refused c)).runs.run = some q ∧ q.phase = .ending ∧
        q.ending = some (.refused, some c)) ∧
      s.takeVerdict .appended = s) ∧
    (∀ v, s.runs.run = none ∨ (∃ r, s.runs.run = some r ∧ r.phase = .claiming ∧ r.mode = .deferred) →
      (v = .appended ∨ v = .granted →
        (s.outstanding .yield = true → s.takeVerdict v = s) ∧
        (s.outstanding .yield = false → s.takeVerdict v = s.queueYield ∧
          (s.member.mstate = .member → (s.takeVerdict v).pends .yield))) ∧
      ((∃ c, v = .refused c) ∨ v = .removedByYield ∨ v = .removedByJoin → s.takeVerdict v = s)) ∧
    (∀ r, s.runs.run = some r → r.phase = .running ∨ r.phase = .paused →
      (∀ c, s.takeVerdict (.refused c) = s) ∧
      ∀ v, v = .removedByYield ∨ v = .removedByJoin →
        ∃ q, (s.takeVerdict v).runs.run = some q ∧ q.phase = .ending ∧ q.ending = some (.failed, some .claimLost) ∧
          (s.takeVerdict v).steps.cur = none ∧ ∀ c, ((s.takeVerdict v).chans.get c).state.letDown = true) ∧
    ∀ r v, s.runs.run = some r → r.phase = .ending → s.takeVerdict v = s

/-- What steers a run in progress. CLAIMING ends LAPSED at the claim wait's end and STOPPED at a HELD-END of the run
function; PAUSED ends LAPSED at the pause's end. HELD-END of the run function while RUNNING holds every DRIVING channel
and pauses the step for 10,000 ms; HELD-BEGIN of it while PAUSED restarts the step at ARMING with its retries kept, and
of another function switches. A HATCH request while CLAIMING or RUNNING stops the run if it names the base's manoeuvre,
and switches it otherwise. A request while ENDING is refused BUSY; HELD-BEGIN while IDLE is refused or starts a run with
its function. A run that starts has the CLAIM of its manoeuvre pending where no own CLAIM or YIELD is outstanding: the
set and units of the catalogue, behind what is pending. Entering ENDING fixes the outcome, lets every channel down and
ends the step, whose record takes the outcome, with no cause of its own (the model's reading, assumption 40). In any
other run state, IDLE included, neither timer has an effect, and neither has a HELD-BEGIN while CLAIMING or RUNNING: the
model's choice (assumption 3). -/
def Obligations.RequestsAndWaitsSteerARun : Prop :=
  ∀ s : State,
    let claims (m : Manoeuvre) (pump rear kerb road : Bool) (units : Nat) : List TxEntry :=
      [{ frame := .claim { pump := pump, rear := rear, kerb := kerb, road := road } units m, attempts := 0
         withdrawn := false }]
    let claimOf (m : Manoeuvre) : List TxEntry :=
      match m with
      | .unfold | .raise | .tiltUp | .fold => claims m true true false false 10
      | .lower | .tiltDown => claims m false true false false 2
      | .openHatch => claims m true false (s.straps.side == .kerb) (s.straps.side == .road) 11
      | .closeHatch => claims m true false (s.straps.side == .kerb) (s.straps.side == .road) 9
      | .level | .ease => []
    (∀ m, s.member.mstate = .member → s.outstanding .claim = false →
      s.queueClaim m = { s with link := { s.link with tx := s.link.tx ++ claimOf m } }) ∧
    (∀ r, s.runs.run = some r →
      (r.phase = .claiming → s.runs.claimWait ≠ none →
        exec .claimWaitTimer s = .next (finish s (s.enterEnding .lapsed none))) ∧
      (r.phase = .paused → s.steps.pause ≠ none →
        exec .pauseTimer s = .next (finish s (s.enterEnding .lapsed none))) ∧
      (∀ f, s.runs.fn = some f →
        (r.phase = .claiming → s.heldEnd f = s.enterEnding .stopped none) ∧
        (∀ c, r.phase = .running → s.steps.cur = some c →
          let t := s.heldEnd f
          t.runs = { s.runs with run := some { r with phase := .paused } } ∧
            t.steps =
              { cur := some { c with state := .paused }, retries := s.steps.retries, driveTime := s.steps.driveTime
                lead := none, recovery := none, priming := none, pause := some 10000 } ∧
            t.log = s.log ∧ t.link = s.link ∧
            ∀ x, t.chans.get x =
              if (s.chans.get x).state.isDriving = true then { state := .holding, held := false, settle := none }
              else s.chans.get x) ∧
        (∀ c, r.phase = .paused → s.steps.cur = some c →
          let t := s.heldBegin f
          t.runs = { s.runs with run := some { r with phase := .running } } ∧ t.chans = s.chans ∧ t.link = s.link ∧
            t.steps =
              { cur := some
                  { state := .arming, gate := .check, testSkip := true, limit := none, noRecord := false, result := none }
                retries := s.steps.retries, driveTime := 0, lead := none, recovery := none, priming := none
                pause := none } ∧
            (c.noRecord = false → t.log = s.log))) ∧
      (∀ f, s.runs.fn ≠ some f ∨ r.phase = .paused ∨ r.phase = .ending → s.heldEnd f = s) ∧
      (∀ f, s.runs.fn ≠ some f → r.phase = .paused → s.heldBegin f = s.switchTo f.manoeuvre (some f)) ∧
      (∀ f, r.phase = .claiming ∨ r.phase = .running → s.heldBegin f = s) ∧
      (∀ m, r.phase = .claiming ∨ r.phase = .running →
        s.touchRequest m = if m = r.base.man then s.enterEnding .stopped none else s.switchTo m none) ∧
      (r.phase = .ending →
        (∀ f, s.heldBegin f = s.writeRequest (some f.manoeuvre) .refused .busy) ∧
        ∀ m, s.touchRequest m = s.writeRequest (some m) .refused .busy)) ∧
    (s.runs.run = none → ∀ f, s.heldEnd f = s ∧
      (s.member.mstate ≠ .member → s.heldBegin f = s.writeRequest (some f.manoeuvre) .refused .notMember) ∧
      (s.member.mstate = .member → s.table.halt.latch ≠ none →
        s.heldBegin f = s.writeRequest (some f.manoeuvre) .refused .latched) ∧
      (s.member.mstate = .member → s.table.halt.latch = none →
        ∃ r, (s.heldBegin f).runs =
            { run := some r, counter := s.runs.counter + 1, claimWait := some 10000, fn := some f } ∧
          r.phase = .claiming ∧ r.base.man = f.manoeuvre ∧ r.base.num = s.runs.counter + 1 ∧ r.nests = [] ∧
          r.mode = (if s.outstanding .claim = true ∨ s.outstanding .yield = true then .deferred else .queued) ∧
          (s.heldBegin f).link =
            if s.outstanding .claim = true ∨ s.outstanding .yield = true then s.link
            else { s.link with tx := s.link.tx ++ claimOf f.manoeuvre })) ∧
    ((∀ r, s.runs.run = some r → r.phase ≠ .claiming) → exec .claimWaitTimer s = .next (finish s s)) ∧
    ((∀ r, s.runs.run = some r → r.phase ≠ .paused) → exec .pauseTimer s = .next (finish s s)) ∧
    ∀ r o c, s.runs.run = some r →
      let t := s.enterEnding o c
      (∃ q, t.runs.run = some q ∧ q.phase = .ending ∧ q.ending = some (o, c) ∧ q.base = r.base ∧ q.nests = r.nests) ∧
        t.steps.cur = none ∧ t.runs.claimWait = none ∧ (∀ x, (t.chans.get x).state.letDown = true) ∧
        t.log.openCount = (if o = .inProgress then s.log.openCount else 0) ∧ t.log = (s.closeRec o none).log

/-- A switch ends the old stack SWITCHED, holds every DRIVING channel and makes a new base. With the same resource set
and no more units the claim is kept: from HELD the new base is RUNNING at once with the lead mark, step 1 in ARMING, and
every channel that its steps do not name let down; from QUEUED or DEFERRED it waits in that mode, a YIELD still owed
staying owed (the model's choice, assumption 13). Otherwise every channel is let down and the base is DEFERRED. Then, in
CLAIMING, an owed YIELD is queued once every channel is settled, and a DEFERRED base queues its CLAIM once no own CLAIM
or YIELD is pending or taken and unprocessed. -/
def Obligations.SwitchKeepsOrRemakesTheClaim : Prop :=
  (∀ (s : State) (r : Run) (m : Manoeuvre) (f : Option LiftFn), s.runs.run = some r →
    let t := s.switchTo m f
    let side := s.straps.side
    let keeps := ∃ set u v, r.base.man.claim side = some (set, u) ∧ m.claim side = some (set, v) ∧ v ≤ u
    let entry (idx : Nat) : RunEntry :=
      { man := m, num := s.runs.counter + 1, origin := .operator, idx := idx, left := (m.steps side).length, back := none
        resume := none, kept := 0, nest := none }
    let fresh : Run :=
      { base := entry 0, nests := [], phase := .claiming, nestCount := 0, leadServed := false, mode := r.mode
        claimTag := s.log.tag, runTag := none, ending := none, owesYield := r.owesYield }
    let switched : LogRec :=
      { kind := .claimPhase, run := r.base.num, depth := 0, man := some r.base.man, idx := none, outcome := .switched
        cause := none, retries := 0, startTag := r.runTag.getD r.claimTag, endTag := some s.log.tag, height := none }
    let first : LogRec :=
      { kind := .step, run := s.runs.counter + 1, depth := 0, man := some m, idx := some 1, outcome := .inProgress
        cause := none, retries := 0, startTag := s.log.tag, endTag := none, height := none }
    let log := ((s.closeRec .switched none).writeRec switched)
    let held (x : Chan) : ChanRec :=
      if (s.chans.get x).state.isDriving = true then { state := .holding, held := false, settle := none }
      else s.chans.get x
    t.link = s.link ∧ t.table = s.table ∧
    (keeps → r.mode = .held →
      t.runs =
        { run := some { fresh with
            base := entry 1, phase := .running, leadServed := r.leadServed, runTag := some s.log.tag, owesYield := false }
          counter := s.runs.counter + 1, claimWait := none, fn := f } ∧
      t.steps =
        { cur := some
            { state := .arming, gate := .check, testSkip := true, limit := none, noRecord := false, result := none }
          retries := 0, driveTime := 0, lead := none, recovery := none, priming := none, pause := none } ∧
      t.log = (log.writeRec first).log ∧
      ∀ x, t.chans.get x = if ∃ d ∈ m.steps side, d.chan = x then held x else (held x).after .relieve) ∧
    (keeps → r.mode ≠ .held →
      t.runs = { run := some fresh, counter := s.runs.counter + 1, claimWait := some 10000, fn := f } ∧
      t.steps = State.reset.steps ∧ t.log = log.log ∧ ∀ x, t.chans.get x = held x) ∧
    (¬keeps →
      t.runs =
        { run := some { fresh with mode := .deferred, owesYield := true }
          counter := s.runs.counter + 1, claimWait := some 10000, fn := f } ∧
      t.steps = State.reset.steps ∧ t.log = log.log ∧ ∀ x, t.chans.get x = (held x).after .relieve)) ∧
  ∀ (s : State) (r : Run), s.runs.run = some r → r.phase = .claiming →
    let settled := ∀ x, (s.chans.get x).state = .closed ∨ (s.chans.get x).state = .resting ∨
      (s.chans.get x).state = .faulted
    let traffic (k : Kind) :=
      (∃ e ∈ s.link.tx, e.frame.kind = k) ∨ ∃ x ∈ s.link.rx, x.kind = k ∧ x.sender = s.own
    (r.owesYield = true → settled →
      engineMove s = some (State.queueYield { s with runs := { s.runs with run := some { r with owesYield := false } } })) ∧
    (r.owesYield = true → ¬settled → engineMove s = none) ∧
    (r.owesYield = false → r.mode = .deferred → ¬traffic .claim → ¬traffic .yield →
      engineMove s =
        some (State.queueClaim { s with runs := { s.runs with run := some { r with mode := .queued } } } r.base.man)) ∧
    (r.owesYield = false → r.mode ≠ .deferred ∨ traffic .claim ∨ traffic .yield → engineMove s = none)

/-- How entries come onto the run stack and leave it. A nest trigger that fires in DRIVING meets the checks in order:
three nests made (NEST-LIMIT), three entries held or a need the base's record does not name (NEST-REFUSED); otherwise
the step's channel holds, its record ends NESTED, and an entry for the nested manoeuvre stands on top at step 1 in
ARMING. A step that ends other than FAILED gives way to the next; after the last the base ends COMPLETE, and a nested
entry leaves and the step below resumes with its retries. A FAILED step ends the base FAILED with its cause, or the
nested entry leaves and the step below fails NESTED-FAILED, not to be retried after DRIVER-FAULT; a retry is counted also
where its channel is FAULTED already (the model's reading, assumption 41). In ENDING, with every
channel settled, the stack empties with a CLAIM-PHASE record and a YIELD unless one is outstanding; until then only the
claim mode follows the claim (the model's reading, assumption 37; that a RESTING channel is settled, assumption 27). -/
def Obligations.StackEntriesAreMadeAndLeave : Prop :=
  (∀ (s : State) (r : Run) (c : CurStep) (d : StepDef) (m : Manoeuvre), s.runs.run = some r →
    let set := match s.ownRecord with | some x => x.set | none => ResSet.empty
    let covered := (m.needs.pump = true → set.pump = true) ∧ (m.needs.rear = true → set.rear = true) ∧
      (m.needs.kerb = true → set.kerb = true) ∧ (m.needs.road = true → set.road = true)
    let t := s.nestTrigger r c d m
    let below : RunEntry :=
      { r.top with resume := some r.top.idx, kept := s.steps.retries
                   nest := if r.nests = [] then none else some .suspended }
    let entry : RunEntry :=
      { man := m, num := s.runs.counter + 1, origin := .nest, idx := 1, left := (m.steps s.straps.side).length
        back := some r.top.num, resume := none, kept := 0, nest := some .walking }
    (r.nestCount = 3 → t = s.failStep c d .nestLimit true) ∧
    (r.nestCount ≠ 3 → 2 ≤ r.nests.length ∨ ¬covered → t = s.failStep c d .nestRefused true) ∧
    (r.nestCount ≠ 3 → r.nests.length < 2 → covered →
      t.runs = { s.runs with
        run := some
          (if r.nests = [] then { r with base := below, nests := [entry], nestCount := r.nestCount + 1 }
          else { r with nests := entry :: below :: r.nests.tail, nestCount := r.nestCount + 1 })
        counter := s.runs.counter + 1 } ∧
      t.steps =
        { cur := some
            { state := .arming, gate := .check, testSkip := true, limit := none, noRecord := false, result := none }
          retries := 0, driveTime := 0, lead := none, recovery := none, priming := none, pause := none } ∧
      t.log = ((s.closeRec .nested none).writeRec
        { kind := .step, run := s.runs.counter + 1, depth := r.nests.length + 1, man := some m, idx := some 1
          outcome := .inProgress, cause := none, retries := 0, startTag := s.log.tag, endTag := none
          height := none }).log ∧
      t.link = s.link ∧ ∀ x, t.chans.get x = if x = d.chan then (s.chans.get x).after .hold else s.chans.get x)) ∧
  (∀ (s : State) (r : Run) (c : CurStep) (o : RunOutcome) (cause : Option Cause), s.runs.run = some r →
    r.phase = .running → s.steps.cur = some c → c.result = some (o, cause) →
    (o ≠ .failed → 1 < r.top.left →
      engineMove s = some (State.arm
        (s.setRun (r.setTop { r.top with left := r.top.left - 1, idx := r.top.idx + 1 })) 0 true true)) ∧
    (o ≠ .failed → r.top.left ≤ 1 → r.nests = [] →
      engineMove s = some (State.enterEnding (s.setRun (r.setTop { r.top with left := r.top.left - 1 })) .complete none)) ∧
    (o = .failed → r.nests = [] → engineMove s = some (s.enterEnding .failed cause)) ∧
    ∀ e rest, r.nests = e :: rest →
      let q : Run := { r with nests := rest }
      let under : RunEntry := { q.top with resume := none, nest := if rest = [] then none else some .walking }
      (o ≠ .failed → e.left ≤ 1 →
        engineMove s = some (State.arm
          (s.setRun (q.setTop { under with idx := q.top.resume.getD q.top.idx })) q.top.kept true true)) ∧
      (∀ d, o = .failed → s.stepOf q.top = some d →
        engineMove s = some (State.failStep
          { s with
            runs := { s.runs with run := some (q.setTop under) }
            steps := { State.reset.steps with retries := q.top.kept } }
          { state := .closing, gate := .check, testSkip := false, limit := none, noRecord := true, result := none } d
          .nestedFailed (cause != some .driverFault)))) ∧
  ∀ (s : State) (r : Run) (o : RunOutcome) (cause : Option Cause), s.runs.run = some r → r.phase = .ending →
    r.ending = some (o, cause) →
    let settled := ∀ x, (s.chans.get x).state = .closed ∨ (s.chans.get x).state = .resting ∨
      (s.chans.get x).state = .faulted
    (settled → ∃ t, engineMove s = some t ∧
      t.runs = { run := none, counter := s.runs.counter, claimWait := none, fn := none } ∧
      t.steps = State.reset.steps ∧ t.chans = s.chans ∧
      t.link = (if s.outstanding .yield = true then s else s.queueYield).link ∧
      t.log = (s.writeRec
        { kind := .claimPhase, run := r.base.num, depth := 0, man := some r.base.man, idx := none, outcome := o
          cause := if o = .failed ∨ o = .refused then cause else none
          retries := 0, startTag := r.runTag.getD r.claimTag, endTag := some s.log.tag, height := none }).log) ∧
    (¬settled →
      let mode : ClaimMode :=
        match r.mode with
        | .queued =>
          if s.ownGranted = true then .held
          else if s.ownRecord ≠ none ∨ s.outstanding .claim = true then .queued
          else .none
        | .held => if s.ownGranted = true then .held else .none
        | .deferred | .none => .none
      engineMove s =
        if mode = r.mode then none else some { s with runs := { s.runs with run := some { r with mode := mode } } })

/-- The step timers. The lead's end serves it and opens the channel. The recovery window's end fails a step in ARMING
with INTERLOCK-LOST, and one STALLED with NO-PRESSURE if its interlock holds and INTERLOCK-LOST otherwise; the priming's
end fails one in PRIMING with NO-PRESSURE; the drive limit fails one that is driving with LIMIT; a drive-time end
reached while it is driving ends it DONE. A step that fails with a cause relieves its channel. With retries left it is
in CLOSING with one more used, and its record carries on and shows the new count; without, or with a cause that is not
retried, it ends FAILED (on-fail ABORT) or FAILED-SKIPPED (on-fail SKIP), and its record is closed with that outcome and
the cause; after NESTED-FAILED a record is first begun for it. A step that waits in CLOSING after NESTED-FAILED has no
record, and one that a driver fault ends there is given none (the model's reading, assumption 14). No record is left
IN-PROGRESS. -/
def Obligations.StepTimersAndFailuresMoveTheStep : Prop :=
  (∀ (s : State) (r : Run) (c : CurStep) (d : StepDef), s.walked = some (r, c, d) →
    (s.steps.lead ≠ none → c.state = .leading →
      exec .leadTimer s = .next (finish s ((s.setRun { r with leadServed := true }).enterOpening c d))) ∧
    (s.steps.recovery ≠ none → c.state = .arming →
      exec .recoveryTimer s = .next (finish s (s.failStep c d .interlockLost true))) ∧
    (s.steps.recovery ≠ none → c.state = .stalled →
      exec .recoveryTimer s =
        .next (finish s (s.failStep c d (if s.interlock d = true then .noPressure else .interlockLost) true))) ∧
    (s.steps.priming ≠ none → c.state = .priming →
      exec .primingTimer s = .next (finish s (s.failStep c d .noPressure true))) ∧
    (∀ ms, c.limit = some ms → c.state = .driving → (s.chans.get d.chan).state = .driving d.dir →
      exec .driveLimit s =
        .next (finish s (State.failStep { s with steps := { s.steps with driveTime := ms } } c d .limit true))) ∧
    (∀ ms, d.driveTimeEnd = some ms → c.state = .driving → (s.chans.get d.chan).state = .driving d.dir →
      exec .driveTimeEnd s =
        .next (finish s (State.stepDone { s with steps := { s.steps with driveTime := ms } } c d)))) ∧
  ∀ (s : State) (c : CurStep) (d : StepDef) (cause : Cause) (retryable : Bool),
    let t := s.failStep c d cause retryable
    (t.chans.get d.chan).state.letDown = true ∧ (∀ x, x ≠ d.chan → t.chans.get x = s.chans.get x) ∧
    t.runs.run = s.runs.run ∧ t.steps.recovery = none ∧ t.steps.priming = none ∧ t.steps.lead = none ∧
    (retryable = true → s.steps.retries < d.retries →
      t.steps.cur = some { c with state := .closing } ∧ t.steps.retries = s.steps.retries + 1 ∧
        t.log = { s.log with slots := s.log.slots.map fun x =>
          if x.data.outcome = .inProgress then { x with data := { x.data with retries := s.steps.retries + 1 } }
          else x }) ∧
    (retryable = false ∨ d.retries ≤ s.steps.retries →
      let o : RunOutcome := match d.onFail with | .abort => .failed | .skip => .failedSkipped
      t.steps.cur = some { c with state := .ended, result := some (o, some cause) } ∧
      t.steps.retries = s.steps.retries ∧ t.log.openCount = 0 ∧
      (c.noRecord = false ∨ cause ≠ .nestedFailed → t.log = (s.closeRec o (some cause)).log) ∧
      ∀ r, s.runs.run = some r → c.noRecord = true → cause = .nestedFailed →
        t.log = ((s.writeRec
          { kind := .step, run := r.top.num, depth := r.nests.length, man := some r.top.man, idx := some r.top.idx
            outcome := .inProgress, cause := none, retries := s.steps.retries, startTag := s.log.tag, endTag := none
            height := none }).closeRec o (some cause)).log)

/-- What the step engine does of itself with a walked step that has not ended, and how one stands where it does nothing.
A FAULTED channel fails the step, one FAULTED before the step came into CLOSING too (the model's reading, assumption 41);
so does one found RELIEVING in OPENING, PRIMING, DRIVING or STALLED, before a lost way would return the step to ARMING
(the model's reading, assumption 26). ARMING goes through channel check, fence, skip-if
and clear way, the waits starting the recovery timer at 2,000 ms, and leaves for LEADING with the row's lead where one is
owed, else for OPENING with OPEN to a CLOSED or RESTING channel. A lost way returns LEADING, OPENING and PRIMING to
ARMING. OPENING ends in PRIMING (3,000 ms without pressure) or DRIVING. DRIVING tests its end, its nest trigger and the
loss of interlock or pressure in order, and then drives, reading the limit once. STALLED holds the channel for 2,000 ms.
An end relieves the channel, or holds it without auto-relieve, and closes the record DONE. CLOSING waits for a CLOSED
channel and arms again with the retries used. Every command that is finished takes these moves: once the command's own
change is noted, the step engine's move, or the run engine's where it has none, is taken and noted, and so on until none
is enabled, at most 256 of them, before the blocks that follow are passed once (the order within one event and the bound
are the model's choice, assumption 23). The fence reads the other channels as the event leaves them (the model's choice,
assumption 50). -/
def Obligations.StepEngineMovesOrRests : Prop :=
  (∀ old s : State,
    let u := State.noteChange old s
    (engineMove u = none → finish old s = follow u) ∧
    ∀ v, engineMove u = some v → finish old s = follow (settle 255 (State.noteChange u v))) ∧
  (∀ (n : Nat) (s : State),
    settle 0 s = s ∧ (engineMove s = none → settle n s = s) ∧
    (∀ t, engineMove s = some t → settle (n + 1) s = settle n (State.noteChange s t)) ∧
    (∀ t, stepMove s = some t → engineMove s = some t) ∧ (stepMove s = none → engineMove s = runMove s)) ∧
  (∀ (s : State) (r : Run) (c : CurStep) (d : StepDef), s.walked = some (r, c, d) → c.result = none →
    let x := s.chans.get d.chan
    let clear := s.interlock d = true ∧ s.stopPressed = false
    let watched := c.state = .opening ∨ c.state = .priming ∨ c.state = .driving ∨ c.state = .stalled
    let at_ (y : CurStep) : StepUnit :=
      { cur := some y, retries := s.steps.retries, driveTime := s.steps.driveTime, lead := none, recovery := none
        priming := none, pause := none }
    let armed (skip : Bool) : StepUnit :=
      { at_ { state := .arming, gate := .check, testSkip := skip, limit := none, noRecord := false, result := none } with
        driveTime := 0 }
    let told (cmd : ChanCmd) : ChanUnit := s.chans.set d.chan ((x.command cmd).getD x)
    let moves (u : StepUnit) (chans : ChanUnit) := engineMove s = some { s with steps := u, chans := chans }
    let gate (g : Gate) : StepUnit := { s.steps with cur := some { c with gate := g } }
    let waits := s.steps.recovery = none → moves { s.steps with recovery := some 2000 } s.chans
    let ends (o : RunOutcome) (chans : ChanUnit) := ∃ t, engineMove s = some t ∧ t.chans = chans ∧ t.runs = s.runs ∧
      t.link = s.link ∧ t.steps = at_ { c with state := .ended, result := some (o, none) } ∧
      t.log = (s.closeRec o none).log
    (x.state = .faulted → engineMove s = some (s.failStep c d .driverFault false)) ∧
    (watched → x.state = .relieving → engineMove s = some (s.failStep c d .channelRefused true)) ∧
    (x.state ≠ .faulted → ¬(watched ∧ x.state = .relieving) →
      (c.state = .arming → c.gate = .check →
        ∃ chans, moves (gate (if d.fence = true then .fence else .skip)) chans ∧
          ∀ y, chans.get y =
            if d.fence = true ∧ y ≠ d.chan ∧ (s.chans.get y).state.letDown = false then
              { state := .relieving, held := false, settle := some 120 }
            else s.chans.get y) ∧
      (c.state = .arming → c.gate = .fence →
        let shut := ∀ y, y ≠ d.chan → (s.chans.get y).state = .closed
        (shut → moves (gate .skip) s.chans) ∧ (¬shut → waits)) ∧
      (c.state = .arming → c.gate = .skip →
        let skips := c.testSkip = true ∧ ∃ q v, d.skipIf = some (q, v) ∧ s.cond q = v
        (skips → ends .skipped s.chans) ∧ (¬skips → moves (gate .way) s.chans)) ∧
      (c.state = .arming → c.gate = .way →
        let owed := d.lead = true ∧ r.leadServed = false ∧ r.nests = []
        (¬clear → waits) ∧
        (clear → owed → moves { at_ { c with state := .leading } with lead := some s.fitRow.lead } s.chans) ∧
        (clear → ¬owed →
          moves (at_ { c with state := .opening })
            (match x.state with
              | .closed => s.chans.set d.chan { state := .opening, held := false, settle := some 60 }
              | .resting => s.chans.set d.chan { x with held := true }
              | _ => s.chans))) ∧
      (c.state = .leading ∨ c.state = .opening ∨ c.state = .priming → ¬clear → moves (armed false) s.chans) ∧
      (c.state = .opening → clear → x.state = .opened ∨ x.state = .holding →
        moves (at_ { c with state := if d.powered = true then .priming else .driving }) s.chans) ∧
      (c.state = .priming → clear →
        (s.pressure = true → moves (at_ { c with state := .driving }) s.chans) ∧
        (s.pressure = false → s.steps.priming = none → moves { s.steps with priming := some 3000 } s.chans)) ∧
      (c.state = .driving →
        let ended := ∃ e ∈ d.ends, match e with
          | .cond q v => s.cond q = v
          | .driveTime ms => ms ≤ s.steps.driveTime
          | .height h => ∃ n, s.lines.height = some n ∧
            let mark := match h with | .floor => 0 | .bed => s.fitRow.bed
            if d.dir = .down then n ≤ mark else mark ≤ n
        let fires (m : Manoeuvre) := ∃ q v, d.nest = some (q, v, m) ∧ s.cond q = v
        let lost := s.interlock d = false ∨ (d.powered = true ∧ s.pressure = false)
        (ended → ends .done (told (if d.autoRelieve = true then .relieve else .hold))) ∧
        (∀ m, ¬ended → fires m → engineMove s = some (s.nestTrigger r c d m)) ∧
        (¬ended → (∀ m, ¬fires m) → lost →
          moves { at_ { c with state := .stalled } with recovery := some 2000 } (told .hold)) ∧
        (¬ended → (∀ m, ¬fires m) → ¬lost → x.state = .opened ∨ x.state = .holding →
          let limit := match d.limit with
            | .none => none
            | .fixed ms => some ms
            | .travel => some s.fitRow.travel
          moves (at_ { c with limit := if c.limit = none then limit else c.limit })
            (s.chans.set d.chan { state := .driving d.dir, held := false, settle := none })) ∧
        (¬ended → (∀ m, ¬fires m) → ¬lost → x.state ≠ .opened → x.state ≠ .holding → x.state ≠ .driving d.dir →
          engineMove s = some (s.failStep c d .channelRefused true))) ∧
      (c.state = .stalled → s.interlock d = true → (d.powered = true → s.pressure = true) →
        moves (at_ { c with state := .driving }) s.chans) ∧
      (c.state = .closing → x.state = .closed →
        let entered : State := { s with steps := armed true }
        engineMove s = some
          (if c.noRecord = true then
            entered.writeRec
              { kind := .step, run := r.top.num, depth := r.nests.length, man := some r.top.man, idx := some r.top.idx
                outcome := .inProgress, cause := none, retries := s.steps.retries, startTag := s.log.tag, endTag := none
                height := none }
          else entered)))) ∧
  ∀ (s : State) (r : Run) (c : CurStep) (d : StepDef), stepMove s = none → s.walked = some (r, c, d) → c.result = none →
    (s.chans.get d.chan).state ≠ .faulted ∧
    (c.state = .leading ∨ c.state = .opening ∨ c.state = .priming → s.interlock d = true ∧ s.stopPressed = false) ∧
    (c.state = .driving →
      s.endHolds d s.steps.driveTime = false ∧ s.triggerHolds d = none ∧ s.interlock d = true ∧
        (d.powered = true → s.pressure = true) ∧ (s.chans.get d.chan).state = .driving d.dir) ∧
    (c.state = .stalled → s.interlock d = false ∨ (d.powered = true ∧ s.pressure = false)) ∧
    (c.state = .priming → s.pressure = false) ∧
    (c.state = .closing → (s.chans.get d.chan).state ≠ .closed) ∧
    (c.state = .arming → s.steps.recovery ≠ none)

/-! ## What a step reads -/

/-- What a step reads. A local term reads the node's own conditions, and one of two is enough for FOLDED-or-AT-BED; a term
that names CAB, LIFT or BEACON reads the own condition on a node of that role, and elsewhere holds exactly while the
MEMBER entry of the role (the one, or the lowest) is HEARD, FRESH and shows the value at the condition's position. Last
conditions are never absent in a FRESH entry; absent ones show nothing. An interlock holds while all its terms do. Each
own condition is true exactly as its block has it, and one of another role is false. The steps of the ten manoeuvres
are those of the two catalogue tables, with I-REAR and I-SIDE spelled term by term, a step's index counting from 1; the
nested manoeuvres need PUMP and the pendant functions name the held manoeuvres; and the fitting row in force, the body's
or else the node's own, is the table's. -/
def Obligations.StepsReadConditionsRosterAndCatalogue : Prop :=
  (∀ s : State,
    let positions (r : Role) : List Cond := [.runActive, .fault, .stopPressed] ++
      (match r with
        | .cab => [.brakeSet, .standstill, .bodyOn]
        | .lift =>
          [.folded, .unfolded, .atFloor, .atBed, .level, .pressureUp, .pumpRunning, .pumpResting, .pumpDemand]
        | .hatch => [.latched, .openFull, .edgeClear, .pumpDemand]
        | .beacon =>
          [.rearLit, .kerbLit, .roadLit, .flagsLit, .rearFailed, .kerbFailed, .roadFailed, .flagsFailed, .hazard])
    let holds (n : Node) (r : Role) := (s.entry n).state = .member ∧ (s.entry n).role.map RoleSide.role = some r
    let shown (n : Node) (r : Role) (c : Cond) := ∃ x, (s.entry n).last = some x ∧
      ∃ i : Fin 16, (positions r)[i.val]? = some c ∧ x.conds.getLsbD i.val = true
    (∀ c v, s.term (.own c v) = true ↔ s.cond c = v) ∧
    (∀ c d, s.term (.either c d) = true ↔ s.cond c = true ∨ s.cond d = true) ∧
    (∀ r c v, r ≠ .hatch →
      (s.straps.role = r → (s.term (.peer r c v) = true ↔ s.cond c = v)) ∧
      (s.straps.role ≠ r → (s.term (.peer r c v) = true ↔
        ∃ n, holds n r ∧ (∀ k, k < n → ¬holds k r) ∧ (s.entry n).heard = true ∧ (s.entry n).fresh = true ∧
          (shown n r c ↔ v = true)))) ∧
    (∀ d, s.interlock d = true ↔ ∀ t ∈ d.interlock, s.term t = true) ∧
    s.pressure = s.term (.peer .lift .pressureUp true)) ∧
  (∀ (s : State) (c : Cond),
    let is (r : Role) := s.straps.role = r
    let active (i : Fin 16) := s.lines.inputs[i].active = true
    let lit (g : Group) := is .beacon ∧ (s.beacon.get g).state = .lit ∧ s.beacon.hazard = false
    let failed (g : Group) := is .beacon ∧ (s.beacon.get g).state = .failed
    let stands : Prop :=
      match c with
      | .runActive => s.runs.run ≠ none
      | .fault => (∃ x, (s.chans.get x).state = .faulted) ∨ (∃ o : Fin 12, s.lines.outLatch[o] = true) ∨
          (∃ g, failed g) ∨ (is .lift ∧ s.pump.faulty = true)
      | .stopPressed => active 0 ∨ (is .lift ∧ active 9)
      | .brakeSet => is .cab ∧ active 2
      | .standstill => is .cab ∧ s.lines.standstill = true
      | .bodyOn => is .cab ∧ active 3
      | .folded => is .lift ∧ active 10
      | .unfolded => is .lift ∧ active 11
      | .atFloor => is .lift ∧ active 12
      | .atBed => is .lift ∧ active 13
      | .level => is .lift ∧ active 14
      | .pressureUp => is .lift ∧ active 15 ∧ s.pump.faulty = false
      | .pumpRunning => is .lift ∧ s.pump.on = true
      | .pumpResting => is .lift ∧ s.pump.rest ≠ none
      | .pumpDemand => ∃ r x d, s.runs.run = some r ∧ s.steps.cur = some x ∧ s.stepOf r.top = some d ∧
          d.powered = true ∧ (x.state = .opening ∨ x.state = .priming ∨ x.state = .driving ∨ x.state = .stalled)
      | .latched => is .hatch ∧ active 6
      | .openFull => is .hatch ∧ active 7
      | .edgeClear => is .hatch ∧ ¬active 8
      | .rearLit => lit .rear
      | .kerbLit => lit .kerb
      | .roadLit => lit .road
      | .flagsLit => lit .flags
      | .rearFailed => failed .rear
      | .kerbFailed => failed .kerb
      | .roadFailed => failed .road
      | .flagsFailed => failed .flags
      | .hazard => is .beacon ∧ s.beacon.hazard = true
    s.cond c = true ↔ stands) ∧
  (∀ side : Side,
    let cab : List Term := [.peer .cab .brakeSet true, .peer .cab .standstill true, .peer .cab .bodyOn true]
    let iRear : List Term := cab ++ [.peer .beacon .rearLit true, .peer .beacon .rearFailed false]
    let iSide : List Term := cab ++
      (match side with
        | .kerb => [.peer .beacon .kerbLit true, .peer .beacon .kerbFailed false]
        | .road => [.peer .beacon .roadLit true, .peer .beacon .roadFailed false])
    let row (chan : Chan) (dir : Dir) (skipIf : Option (Cond × Bool)) (lead powered : Bool) (interlock : List Term)
        (ends : List EndCond) (limit : StepLimit) (retries : Nat) (autoRelieve : Bool)
        (nest : Option (Cond × Bool × Manoeuvre)) : StepDef :=
      { chan := chan, dir := dir, skipIf := skipIf, lead := lead, powered := powered, interlock := interlock
        ends := ends, limit := limit, retries := retries, onFail := .abort, autoRelieve := autoRelieve, fence := false
        nest := nest }
    let unfolded := iRear ++ [.own .unfolded true]
    let bed : List EndCond := [.cond .atBed true, .height .bed]
    let level : List EndCond := [.cond .level true]
    let tilt (skipIf : Option (Cond × Bool)) := row .tilt .up skipIf true true unfolded level (.fixed 3000) 1 true none
    let lift (skipIf : Option (Cond × Bool)) (nest : Option (Cond × Bool × Manoeuvre)) :=
      row .lift .up skipIf true true unfolded bed (.fixed 15000) 1 true nest
    Manoeuvre.unfold.steps side =
      [row .fold .outward none true true (iRear ++ [.either .folded .atBed]) [.cond .unfolded true] (.fixed 8000) 1 true
        none] ∧
    Manoeuvre.lower.steps side =
      [row .lift .down none true false unfolded [.cond .atFloor true, .height .floor] (.fixed 15000) 0 true none] ∧
    Manoeuvre.raise.steps side = [tilt (some (.level, true)), lift none (some (.level, false, .level))] ∧
    Manoeuvre.tiltDown.steps side =
      [row .tilt .down none true false (iRear ++ [.own .atFloor true]) [.driveTime 2500] .none 0 true none] ∧
    Manoeuvre.tiltUp.steps side = [tilt none] ∧
    Manoeuvre.fold.steps side =
      [tilt (some (.level, true)), lift (some (.atBed, true)) none
      , { row .fold .inward none true true (iRear ++ [.own .atBed true]) [.cond .folded true] (.fixed 8000) 1 true none
          with fence := true }] ∧
    Manoeuvre.level.steps side = [row .tilt .up none false true iRear level (.fixed 2000) 0 true none] ∧
    Manoeuvre.openHatch.steps side =
      [row .latch .release (some (.latched, false)) true false iSide [.cond .latched false] (.fixed 1000) 1 false none
      , row .ram .openDir (some (.openFull, true)) true true iSide [.cond .openFull true] .travel 1 true none] ∧
    Manoeuvre.closeHatch.steps side =
      [row .ram .closeDir none true true (iSide ++ [.own .edgeClear true]) [.cond .latched true] .travel 1 true
        (some (.edgeClear, false, .ease))] ∧
    Manoeuvre.ease.steps side = [row .ram .openDir none false true iSide [.driveTime 800] .none 0 false none]) ∧
  (∀ (s : State) (e : RunEntry), s.stepOf e = if e.idx = 0 then none else (e.man.steps s.straps.side)[e.idx - 1]?) ∧
  (∀ m : Manoeuvre, m.needs = { pump := m == .level || m == .ease, rear := false, kerb := false, road := false }) ∧
  (LiftFn.up.manoeuvre = .raise ∧ LiftFn.down.manoeuvre = .lower ∧ LiftFn.tiltUp.manoeuvre = .tiltUp ∧
    LiftFn.tiltDown.manoeuvre = .tiltDown ∧ LiftFn.fold.manoeuvre = .fold ∧ LiftFn.unfold.manoeuvre = .unfold) ∧
  ∀ s : State,
    let code := match s.member.bodyFit with | some f => f | none => s.straps.fit
    (s.fitRow.bed, s.fitRow.lead, s.fitRow.travel, s.fitRow.duty) =
      match code with
      | 0 => (480, 1500, 6000, 90)
      | 1 => (560, 1500, 6000, 90)
      | 2 => (640, 2000, 8000, 120)
      | 3 => (720, 2000, 8000, 120)
      | 4 => (800, 2000, 8000, 120)
      | 5 => (880, 3000, 10000, 150)
      | 6 => (960, 3000, 10000, 150)
      | 7 => (1040, 3000, 12000, 180)

/-! ## Postures and the time tag -/

/-- A change of the own conditions, the run summary, the run state or the halt latch is published by a MEMBER. After an
event that changes one of them a POSTURE is pending, or while the spacing timer runs the change mark is set; with an own
POSTURE attempt on the line the mark is set too. One change noted queues or marks no more than that, and none is noted
without a change or outside MEMBER; the run state is watched, and each change within the event, by the model's choice
(assumption 22). While MEMBER, the posture period's end queues a POSTURE and reloads the period at 50 ms, the model's
choice (assumption 21). The spacing timer's end queues one exactly if the change mark is set, and the timer stops. The
time tag counts one millisecond modulo 65,536, in every membership state, and changes nothing else. The command of a
stopped timer changes nothing, the model's choice (assumption 3). -/
def Obligations.PosturesFollowChangesAndTimers : Prop :=
  (∀ old s : State, s.member.mstate = .member →
    let shown (x : State) := (x.condWord, x.summary, x.runs.run.map Run.phase, x.table.halt.latch.isSome)
    let t := finish old s
    let u := s.queue .posture
    (shown old ≠ shown t →
      (t.post.spacing ≠ none → t.post.changed = true) ∧
      (t.post.spacing = none → t.pends .posture ∧
        (t.link.line.isSending .posture none = true → t.post.changed = true))) ∧
    (shown old ≠ shown s →
      (s.post.spacing ≠ none → State.noteChange old s = { s with post := { s.post with changed := true } }) ∧
      (s.post.spacing = none → s.link.line.isSending .posture none = false → State.noteChange old s = u) ∧
      (s.post.spacing = none → s.link.line.isSending .posture none = true →
        State.noteChange old s = { u with post := { u.post with changed := true } })) ∧
    (shown old = shown s → State.noteChange old s = s)) ∧
  (∀ old s : State, s.member.mstate ≠ .member → State.noteChange old s = s) ∧
  ∀ s : State,
    (s.member.mstate = .member → s.post.period ≠ none →
      exec .posturePeriodTimer s = .next (State.queue { s with post := { s.post with period := some 50 } } .posture)) ∧
    (s.post.period = none ∨ s.member.mstate ≠ .member → exec .posturePeriodTimer s = .next s) ∧
    (s.post.spacing ≠ none →
      let u : State := { s with post := { s.post with spacing := none } }
      exec .postureSpacingTimer s = .next (if s.post.changed = true then u.queue .posture else u)) ∧
    (s.post.spacing = none → exec .postureSpacingTimer s = .next s) ∧
    exec .timeTagTick s = .next { s with log := { s.log with tag := s.log.tag + 1 } }

/-! ## The log ring -/

/-- A record written stands as the youngest, at the write position. While it takes an empty slot every other record
stays; in a full ring of distinct slots it replaces the one record at the write position, and the others keep their
order. The write position then is the next empty slot, or in a full ring the slot of the oldest closed record, an
IN-PROGRESS one being passed over. Closing a record moves neither records nor the write position; the IN-PROGRESS
record takes the outcome, the cause, the time tag as its end tag, and for a step of the LIFT channel the height count. -/
def Obligations.LogRingReplacesTheOldestClosedRecord : Prop :=
  ∀ (s : State) (r : LogRec),
    let t := s.writeRec r
    t.log.youngest = some r ∧ t.log.tag = s.log.tag ∧
    ((∀ x ∈ s.log.slots, x.slot ≠ s.log.wpos) →
      t.log.slots = s.log.slots ++ [{ slot := s.log.wpos, data := r }]) ∧
    (∀ a x b, s.log.slots = a ++ x :: b → x.slot = s.log.wpos →
      (∀ y ∈ a, y.slot ≠ x.slot) → (∀ y ∈ b, y.slot ≠ x.slot) →
      t.log.slots = a ++ b ++ [{ slot := s.log.wpos, data := r }]) ∧
    (t.log.slots.length < 32 → t.log.wpos = t.log.slots.length) ∧
    (32 ≤ t.log.slots.length → ∀ a x b, t.log.slots = a ++ x :: b → (∀ y ∈ a, y.data.outcome = .inProgress) →
      x.data.outcome ≠ .inProgress → t.log.wpos = x.slot) ∧
    ∀ (o : RunOutcome) (c : Option Cause),
      (s.closeRec o c).log.wpos = s.log.wpos ∧
      (s.closeRec o c).log.slots.map LogSlot.slot = s.log.slots.map LogSlot.slot ∧
      (∀ x ∈ s.log.slots, x.data.outcome ≠ .inProgress → x ∈ (s.closeRec o c).log.slots) ∧
      ∀ x ∈ s.log.slots, x.data.outcome = .inProgress →
        ∃ h, { x with data := { x.data with outcome := o, cause := c, endTag := some s.log.tag, height := h } } ∈
            (s.closeRec o c).log.slots ∧
          ∀ m i d, x.data.man = some m → x.data.idx = some i → m.step s.straps.side i = some d →
            h = if d.chan = .lift then s.lines.height else none

/-! ## Pump -/

/-- The pump's timers. The idle timer's end sets the running time to 0. The duty limit turns a running output off,
without an idle timer, and starts a rest of half the duty limit of the row in force; the rest's end sets the running
time to 0. The plausibility timer's end judges the switch faulty. After every event, finished, the output is on exactly
while the node is a MEMBER LIFT, its latch is clear, no rest is in force, the fault latch of OUT9 is clear, and the
holder of PUMP demands it: by its own powered step in OPENING, PRIMING, DRIVING or STALLED, or as a MEMBER that is HEARD
and FRESH by position 6 (HATCH) or 11 (LIFT) of its last conditions. A turn-off starts the idle timer at 10,000 ms and a
turn-on stops it. The plausibility timer runs, from 2,000 ms, while PRESSURE-SW is active, the output off and the switch
believed on LIFT; a switch judged faulty is believed again once PRESSURE-SW is inactive (the model's reading, assumption
39). The command of a timer that does not run changes nothing, the model's choice (assumption 3). -/
def Obligations.PumpTimersRunOut : Prop :=
  ∀ s : State,
    (s.pump.idle ≠ none → exec .idleTimer s = .next { s with pump := { s.pump with idle := none, runTime := 0 } }) ∧
    (s.pump.on = true →
      exec .dutyLimit s = .next (finish s
        { s with pump := { s.pump with
          on := false, runTime := s.fitRow.duty * 1000, idle := none, rest := some (s.fitRow.duty * 500) } })) ∧
    (s.pump.rest ≠ none →
      exec .restTimer s = .next (finish s { s with pump := { s.pump with rest := none, runTime := 0 } })) ∧
    (s.pump.plaus ≠ none →
      exec .plausibilityTimer s = .next (finish s
        { s with pump := { s.pump with plaus := none, faulty := true } })) ∧
    (s.pump.idle = none → exec .idleTimer s = .next s) ∧
    (s.pump.on = false → exec .dutyLimit s = .next (finish s s)) ∧
    (s.pump.rest = none → exec .restTimer s = .next (finish s s)) ∧
    (s.pump.plaus = none → exec .plausibilityTimer s = .next (finish s s)) ∧
    ∀ old : State,
      let t := finish old s
      let ownDemand := ∃ r c d, t.runs.run = some r ∧ t.steps.cur = some c ∧ t.stepOf r.top = some d ∧
        d.powered = true ∧ (c.state = .opening ∨ c.state = .priming ∨ c.state = .driving ∨ c.state = .stalled)
      let peerDemand (e : Entry) := e.state = .member ∧ e.heard = true ∧ e.fresh = true ∧
        ∃ x, e.last = some x ∧
          ((∃ d, e.role = some (.hatch d)) ∧ x.conds.getLsbD 6 = true ∨ e.role = some .lift ∧ x.conds.getLsbD 11 = true)
      (t.pump.on = true ↔ t.straps.role = .lift ∧ t.member.mstate = .member ∧ t.table.halt.latch = none ∧
        t.pump.rest = none ∧ t.lines.outLatch[(9 : Fin 12)] = false ∧
        ∃ a h b, t.table.claims = a ++ h :: b ∧ (∀ x ∈ a, x.state = .granted → x.set.pump = false) ∧
          h.state = .granted ∧ h.set.pump = true ∧
          (h.claimant = t.own → ownDemand) ∧ (h.claimant ≠ t.own → peerDemand (t.entry h.claimant))) ∧
      t.pump.runTime = s.pump.runTime ∧ t.pump.rest = s.pump.rest ∧
      t.pump.idle =
        (if s.pump.on = true ∧ t.pump.on = false then some 10000
        else if s.pump.on = false ∧ t.pump.on = true then none
        else s.pump.idle) ∧
      t.pump.faulty = (s.pump.faulty && t.input 15) ∧
      t.pump.plaus =
        (if t.straps.role = .lift ∧ t.input 15 = true ∧ t.pump.on = false ∧ t.pump.faulty = false then
          (if s.pump.plaus = none then some 2000 else s.pump.plaus)
        else none) ∧
      (t.cond .pressureUp = true ↔ t.straps.role = .lift ∧ t.input 15 = true ∧ t.pump.faulty = false)

/-! ## Beacons and indicators -/

/-- The beacon timers. A warming group whose check finds an over-current, or an open load while its outputs are driven,
becomes FAILED; without a fault it becomes LIT with demand and TAIL at 2,000 ms without; a TAIL's end is DARK. A test
slot checks its group and passes to the next of REAR, KERB, ROAD, FLAGS at 500 ms, and after FLAGS the test is DONE. A
flash timer is reloaded and its phase changes. The flash of the FAULT lamp runs on a MEMBER CAB while the latch is set,
from the on phase at 250 ms; NODE-OK's runs outside START and MEMBER, from the on phase at 500 ms, or 125 ms in BARRED
and UNFIT, and goes on while its half-period stays. The lamps' state at a check is the command's operand, the model's
choice (assumption 20); so is that a group FAILED already is driven in its test slot, and a good check leaves it FAILED
(assumption 29). -/
def Obligations.BeaconTimersRunOut : Prop :=
  (∀ (s : State) (g : Group) (openLoad overCurrent : Bool), (s.beacon.get g).timer ≠ none →
    let fails := overCurrent = true ∨ (openLoad = true ∧ s.groupDriven g = true)
    let x := s.beacon.get g
    let become (y : GroupRec) :=
      exec (.groupTimer g openLoad overCurrent) s = .next (finish s { s with beacon := s.beacon.set g y })
    (x.state = .warming → fails → become { x with state := .failed, timer := none }) ∧
    (x.state = .warming → ¬fails → x.demanded = true → become { x with state := .lit, timer := none }) ∧
    (x.state = .warming → ¬fails → x.demanded = false → become { x with state := .tail, timer := some 2000 }) ∧
    (x.state = .tail → become { x with state := .dark, timer := none })) ∧
  (∀ (s : State) (g : Group) (openLoad overCurrent : Bool), s.beacon.test = .slot g → s.beacon.slot ≠ none →
    let fails := overCurrent = true ∨ (openLoad = true ∧ s.groupDriven g = true)
    let u : BeaconUnit :=
      if fails then s.beacon.set g { s.beacon.get g with state := .failed, timer := none } else s.beacon
    exec (.testSlotTimer openLoad overCurrent) s = .next (finish s
      { s with beacon :=
        match g with
        | .rear => { u with test := .slot .kerb, slot := some 500 }
        | .kerb => { u with test := .slot .road, slot := some 500 }
        | .road => { u with test := .slot .flags, slot := some 500 }
        | .flags => { u with test := .done, slot := none } })) ∧
  ∀ s : State,
    (s.beacon.flash.timer ≠ none →
      exec .hazardFlashTimer s = .next
        { s with beacon := { s.beacon with flash := { s.beacon.flash with on := !s.beacon.flash.on } } }) ∧
    (s.cab.timer ≠ none → exec .cabFaultFlashTimer s = .next { s with cab := { s.cab with on := !s.cab.on } }) ∧
    (s.nodeOk.timer ≠ none →
      exec .nodeOkFlashTimer s = .next { s with nodeOk := { s.nodeOk with on := !s.nodeOk.on } }) ∧
    ∀ old : State,
      let t := finish old s
      let flashes := t.straps.role = .cab ∧ t.member.mstate = .member ∧ t.table.halt.latch ≠ none
      let half : Option Nat :=
        match t.member.mstate with
        | .start | .member => none
        | .listen | .joinWait | .isolated => some 500
        | .barred | .unfit => some 125
      (flashes → t.cab = if s.cab.timer = none then { timer := some 250, on := true } else s.cab) ∧
      (¬flashes → t.cab = if s.cab.timer = none then s.cab else { timer := none, on := false }) ∧
      t.nodeOk = if s.nodeOk.timer = half then s.nodeOk else { timer := half, on := half.isSome }

/-- What a BEACON node shows after every event, finished. Hazard is in force while the latch is set and in ISOLATED,
BARRED and UNFIT, and starts its flash in the on phase at 500 ms. While MEMBER, a zone's group is demanded while a
GRANTED record names the zone, and FLAGS while no entry of role LIFT is MEMBER or that entry is FRESH and shows FOLDED
false. A demand that begins takes DARK to WARMING at 100 ms and TAIL to LIT; one that ends takes LIT to TAIL at 2,000
ms; WARMING and FAILED stay. The lamp test starts with REAR at 500 ms the first time the node is MEMBER, or is DONE at
once under hazard or any demand; hazard's start, a demand's begin and leaving MEMBER cut it. -/
def Obligations.BeaconsFollowReplicaAndHazard : Prop :=
  ∀ old s : State, s.straps.role = .beacon →
    let t := finish old s
    let hazard := t.table.halt.latch ≠ none ∨ t.member.mstate = .isolated ∨ t.member.mstate = .barred ∨
      t.member.mstate = .unfit
    let zone (names : ResSet → Bool) := t.member.mstate = .member ∧
      ∃ r ∈ t.table.claims, r.state = .granted ∧ names r.set = true
    let lift (n : Node) := (t.entry n).state = .member ∧ (t.entry n).role = some .lift
    let begins (g : Sys2Proof.Group) := (s.beacon.get g).demanded = false ∧ (t.beacon.get g).demanded = true
    let cut := (s.beacon.hazard = false ∧ t.beacon.hazard = true) ∨ (∃ g, begins g) ∨ t.member.mstate ≠ .member
    (t.beacon.hazard = true ↔ hazard) ∧
    (t.beacon.hazard = true →
      t.beacon.flash = if s.beacon.hazard = true then s.beacon.flash else { timer := some 500, on := true }) ∧
    (t.beacon.hazard = false → s.beacon.hazard = true → t.beacon.flash = { timer := none, on := false }) ∧
    (t.beacon.rear.demanded = true ↔ zone ResSet.rear) ∧ (t.beacon.kerb.demanded = true ↔ zone ResSet.kerb) ∧
    (t.beacon.road.demanded = true ↔ zone ResSet.road) ∧
    (t.beacon.flags.demanded = true ↔ t.member.mstate = .member ∧
      ((∀ n, ¬lift n) ∨ ∃ n, lift n ∧ (∀ k, lift k → n ≤ k) ∧ (t.entry n).fresh = true ∧
        ∀ x, (t.entry n).last = some x → x.conds.getLsbD 3 = false)) ∧
    (∀ g, t.beacon.get g =
      let x := s.beacon.get g
      let b := (t.beacon.get g).demanded
      if x.demanded = false ∧ b = true then
        (match x.state with
          | .dark => { state := .warming, timer := some 100, demanded := true }
          | .tail => { state := .lit, timer := none, demanded := true }
          | .warming | .lit | .failed => { x with demanded := true })
      else if x.demanded = true ∧ b = false then
        (match x.state with
          | .lit => { state := .tail, timer := some 2000, demanded := false }
          | .dark | .warming | .tail | .failed => { x with demanded := false })
      else x) ∧
    (s.beacon.test = .notRun → t.member.mstate ≠ .member → t.beacon.test = .notRun) ∧
    (s.beacon.test = .notRun → t.member.mstate = .member →
      let any := t.beacon.hazard = true ∨ ∃ g, (t.beacon.get g).demanded = true
      (any → t.beacon.test = .done) ∧ (¬any → t.beacon.test = .slot .rear ∧ t.beacon.slot = some 500)) ∧
    (∀ g, s.beacon.test = .slot g →
      (cut → t.beacon.test = .done ∧ t.beacon.slot = none) ∧
      (¬cut → t.beacon.test = .slot g ∧ t.beacon.slot = s.beacon.slot)) ∧
    (s.beacon.test = .done → t.beacon.test = .done)

/-- The level of every output is read from its block: a channel's selector, solenoid and directions from the channel's
state; PUMP from the pump service; the lamps from hazard, the lamp test or the group's state; NODE-OK from the
membership state; and on the CAB, BODY-ACTIVE, FAULT and BUZZER, the first and last off and the second on outside
MEMBER. The FAULT lamp of a MEMBER flashes with the latch set, and with it clear is on while a MEMBER shows FAULT or an
entry is ABSENT or BARRED. An output with no meaning in the role stays off. That the lamps of a group FAILED already are
on in its test slot, and that the CAB's own conditions count for its lamps while its own entry is MEMBER, is the model's
choice (assumptions 29 and 42). -/
def Obligations.OutputsFollowTheirBlocks : Prop :=
  ∀ s : State,
    (∀ c ∈ s.straps.role.chans, ∀ o : Fin 12, o.val = chanFirstOutput c → s.output o =
      match (s.chans.get c).state with
      | .opening => .pullIn
      | .opened | .driving _ | .holding => .hold
      | .closed | .relieving | .resting | .faulted => .off) ∧
    (∀ c ∈ s.straps.role.chans, c ≠ .latch → ∀ o : Fin 12,
      (o.val = chanFirstOutput c + 1 ∨ o.val = chanFirstOutput c + 2) → s.output o ≠ .off →
      s.output o = .on ∧ ∃ d, (s.chans.get c).state = .driving d ∧
        ((d = .up ∨ d = .inward ∨ d = .openDir) ∧ o.val = chanFirstOutput c + 1 ∨
          (d = .down ∨ d = .outward ∨ d = .closeDir) ∧ o.val = chanFirstOutput c + 2)) ∧
    (∀ c ∈ s.straps.role.chans, c ≠ .latch → ∀ (d : Dir) (o : Fin 12), (s.chans.get c).state = .driving d →
      o.val = chanFirstOutput c + (if d = .up ∨ d = .inward ∨ d = .openDir then 1 else 2) → d ≠ .release →
      s.output o = .on) ∧
    (s.straps.role = .lift → (s.output 9 = .on ↔ s.pump.on = true)) ∧
    (s.straps.role = .beacon →
      ∀ x ∈ [((0 : Fin 12), Group.rear), (1, .rear), (2, .kerb), (3, .road), (4, .flags), (5, .flags)],
        (s.output x.1 = .on ↔
          if s.beacon.hazard = true then s.beacon.flash.on = true
          else s.beacon.test = .slot x.2 ∨ (s.beacon.get x.2).state = .warming ∨ (s.beacon.get x.2).state = .lit ∨
            (s.beacon.get x.2).state = .tail)) ∧
    (s.output 11 = .on ↔ s.member.mstate = .member ∨ (s.member.mstate ≠ .start ∧ s.nodeOk.on = true)) ∧
    (s.straps.role = .cab →
      (s.output 0 = .on ↔ s.member.mstate = .member ∧
        ∃ n, (s.entry n).state = .member ∧
          (if n = s.own then s.cond .runActive = true else (s.entry n).shows .runActive = true)) ∧
      (s.member.mstate ≠ .member → s.output 1 = .on) ∧
      (s.member.mstate = .member → s.table.halt.latch ≠ none → (s.output 1 = .on ↔ s.cab.on = true)) ∧
      (s.member.mstate = .member → s.table.halt.latch = none → (s.output 1 = .on ↔
        (∃ n, (s.entry n).state = .member ∧
          (if n = s.own then s.cond .fault = true else (s.entry n).shows .fault = true)) ∨
        ∃ n, (s.entry n).state = .absent ∨ (s.entry n).state = .barred)) ∧
      (s.output 2 = .on ↔ s.member.mstate = .member ∧ s.lines.standstill = false ∧
        ((∃ r ∈ s.table.claims, r.state = .granted ∧ (r.set.rear || r.set.kerb || r.set.road) = true) ∨
          s.reportedUnfolded = true))) ∧
    ∀ o : Fin 12, o ≠ 11 →
      (match s.straps.role with | .cab => 2 | .lift => 9 | .hatch => 3 | .beacon => 5) < o.val → s.output o = .off

/-! ## The service port -/

/-- A line handed on to a port that is not answering, by what it reads as: STATUS, ROSTER, TABLE and LOG send the
answer's lines built at that moment, a line not recognised sends ERROR, and the buffer is empty for the next line. A
blank line is dropped. While the port is answering, a line that is not blank only sets BUSY owed. That an answer is
typed lines, with the true conditions by position and a side for HATCH alone, is the model's choice (assumptions 16, 34
and 35), and so are the node number in an ENTRY line (assumption 44), that such a line tells absent last conditions from
present ones with none true (assumption 46), and that each of the seven rows acts as its line
reads, whichever row it is (assumption 33). A PEER request of a node that is not MEMBER, or for a target that is not, is answered NOT-MEMBER; one for the
node itself is answered at once; for a MEMBER peer the relay slot is filled, the relay timer starts at 250 ms and a
PROBE is queued. The relay timer's end answers NO-REPLY, empties the slot and drops a PROBE that is not on the line; one
on the line stays pending, the model's choice (assumption 36). The end of an answer sends an owed BUSY line, BUSY being
owed until that line is sent (the model's reading, assumption 15), and after it the port is not answering. The receiver stores characters 32 to 126, the first 32 of a line; a
framing error and any other character but a line feed mark the line bad, a 33rd marks it over-long, and the rest is then
dropped. A line that is neither is read as words parted by spaces: STATUS, ROSTER, TABLE, LOG, PEER n STATUS and PEER n LOG i
with n a digit 0-7 and i one or two digits, 0-31, are requests, no word at all is blank, anything else not recognised.
That a low stop bit counts before the character's code is the model's reading (assumption 48). -/
def Obligations.PortAnswersAndRelays : Prop :=
  (∀ (b : LineBuf) (l : List RxChar) (c : RxChar),
    let x := b.gather l
    let code := c.code.toNat
    let next := b.gather (l ++ [c])
    b.gather [] = b ∧
    (x.overLong = true → next = x) ∧
    (x.overLong = false → c.stopLow = true → next = { x with bad := true }) ∧
    (x.overLong = false → c.stopLow = false →
      (code = 10 → next = x) ∧
      (32 ≤ code → code ≤ 126 → x.chars.length < 32 → next = { x with chars := x.chars ++ [code] }) ∧
      (32 ≤ code → code ≤ 126 → 32 ≤ x.chars.length → next = { x with overLong := true }) ∧
      (code < 32 ∨ 126 < code → code ≠ 10 → code ≠ 13 → next = { x with bad := true }))) ∧
  (∀ (n : Nat) (w rest : List Nat), w ≠ [] → 32 ∉ w →
    splitWords [] (List.replicate n 32) = [] ∧
    splitWords [] (List.replicate n 32 ++ w) = [w] ∧
    splitWords [] (List.replicate n 32 ++ w ++ 32 :: rest) = w :: splitWords [] rest) ∧
  (∀ x : LineBuf,
    let word (w : List Char) : List Nat := w.map Char.toNat
    let status := word ['S', 'T', 'A', 'T', 'U', 'S']
    let log := word ['L', 'O', 'G']
    let peer := word ['P', 'E', 'E', 'R']
    let reads (ws : List (List Nat)) := x.bad = false ∧ x.overLong = false ∧ splitWords [] x.chars = ws
    (x.read = .blank ↔ reads []) ∧
    (x.read = .status ↔ reads [status]) ∧
    (x.read = .roster ↔ reads [word ['R', 'O', 'S', 'T', 'E', 'R']]) ∧
    (x.read = .table ↔ reads [word ['T', 'A', 'B', 'L', 'E']]) ∧
    (x.read = .log ↔ reads [log]) ∧
    ∀ n : Node,
      (x.read = .peerStatus n ↔ reads [peer, [48 + n.val], status]) ∧
      ∀ i : Fin 32, x.read = .peerLog n i ↔
        (i.val < 10 ∧ reads [peer, [48 + n.val], log, [48 + i.val]]) ∨
          reads [peer, [48 + n.val], log, [48 + i.val / 10, 48 + i.val % 10]]) ∧
  (∀ (s : State) (l : List RxChar),
    let read := (s.port.buf.gather l).read
    let send (a : List AnswerLine) : State := { s with port := { s.port with buf := LineBuf.empty, answer := .sending a } }
    (s.port.answer = .idle →
      (read = .status → exec (.status l) s = .next (send
        [.node s.own s.straps.role s.straps.roleSide.side s.straps.fit s.member.bodyFit
        , .state s.member.mstate s.member.cause, .take s.member.takeCount, .time s.log.tag
        , .cond ((condsOf (some s.straps.role)).filter s.cond), .run s.summary (some s.runState), .halt s.table.halt
        , .chan (s.straps.role.chans.map fun c => (c, (s.chans.get c).state))
        , .log s.log.slots.length (s.log.slots.findIdx? fun x => x.data.outcome == .inProgress), .ok])) ∧
      (read = .roster → exec (.roster l) s = .next (send
        ((([0, 1, 2, 3, 4, 5, 6, 7] : List Node).map fun n =>
          let e := s.entry n
          .entry n e.state e.role e.heard e.agree e.fresh
            (e.last.map fun x => trueConds (e.role.map RoleSide.role) x.conds)) ++ [.ok]))) ∧
      (read = .table → exec (.table l) s = .next (send
        ([.halt s.table.halt, .supply (supplyInUse s.table.claims)] ++ s.table.claims.map .claim ++ [.ok]))) ∧
      (read = .log → exec (.log l) s = .next (send
        ((s.log.slots.zipIdx.map fun x => .record x.2 x.1.data) ++ [.ok]))) ∧
      (read = .wrong → exec (.error l) s = .next (send [.error]))) ∧
    (read = .blank →
      ∀ c ∈ [Instr.status l, .roster l, .table l, .log l, .peerStatus l, .peerLog l, .error l],
        exec c s = .next { s with port := { s.port with buf := LineBuf.empty } }) ∧
    (s.port.answer ≠ .idle → read ≠ .blank →
      ∀ c ∈ [Instr.status l, .roster l, .table l, .log l, .peerStatus l, .peerLog l, .error l],
        exec c s = .next { s with port := { s.port with buf := LineBuf.empty, busyOwed := true } })) ∧
  (∀ (s : State) (l : List RxChar) (n : Node) (req : ProbeReq) (c : Instr), s.port.answer = .idle →
    ((c = .peerStatus l ∧ req = .status ∧ (s.port.buf.gather l).read = .peerStatus n) ∨
      ∃ i, c = .peerLog l ∧ req = .log i ∧ (s.port.buf.gather l).read = .peerLog n i) →
    let port : PortUnit := { s.port with buf := LineBuf.empty }
    (s.member.mstate ≠ .member ∨ (s.entry n).state ≠ .member →
      exec c s = .next { s with port := { port with answer := .sending [.notMember] } }) ∧
    (s.member.mstate = .member → (s.entry n).state = .member → n = s.own →
      exec c s = .next { s with port :=
        { port with answer := .sending (contentLines (some s.straps.role) req (s.replyContent req)) } }) ∧
    (s.member.mstate = .member → (s.entry n).state = .member → n ≠ s.own →
      exec c s = .next (State.queue
        { s with port :=
          { port with answer := .relaying, relay := some { target := n, req := req }, relayTimer := some 250 } }
        (.probe n req)))) ∧
  ∀ s : State,
    (s.port.relayTimer ≠ none → s.port.relay ≠ none →
      ∃ t, exec .relayTimer s = .next t ∧
        t.port = { s.port with answer := .sending [.noReply], relay := none, relayTimer := none } ∧
        t.link.tx =
          if s.link.line.isSending .probe none = true then s.link.tx
          else s.link.tx.filter fun e => !(e.frame.kind == .probe && e.frame.subject == none)) ∧
    (∀ a, s.port.answer = .sending a →
      exec .answerSent s = .next
        { s with port := { s.port with answer := if s.port.busyOwed = true then .busyLine else .idle } }) ∧
    (s.port.answer = .busyLine →
      exec .answerSent s = .next { s with port := { s.port with answer := .idle, busyOwed := false } })

/-! ## Headline statements -/

/-- Every step keeps the laws behind every motion, and under them a channel is DRIVING only while the node is MEMBER,
its halt latch is clear, its own claim record is GRANTED and its run is RUNNING. -/
def Obligations.MotionNeedsAGrantedClaim : Prop :=
  (∀ s t : State, s.motionLaws = true → step s = .next t → t.motionLaws = true) ∧
  ∀ (s : State) (c : Chan) (d : Dir), s.motionLaws = true → (s.chans.get c).state = .driving d →
    s.member.mstate = .member ∧ s.table.halt.latch = none ∧ s.ownGranted = true ∧
      ∃ r, s.runs.run = some r ∧ r.phase = .running ∧ r.mode = .held

/-- Every step keeps the laws of the single blocks: the ranges of the run stack, of the link controller and of the log
ring, the filters' timers, the pump output and the beacons' demands and hazard. -/
def Obligations.EveryStepKeepsTheBlockLaws : Prop :=
  ∀ s t : State, step s = .next t →
    (s.stackLaws = true → t.stackLaws = true) ∧ (s.link.laws = true → t.link.laws = true) ∧
    (s.log.laws = true → t.log.laws = true) ∧ (s.filterLaws = true → t.filterLaws = true) ∧
    (s.pumpLaws = true → t.pumpLaws = true) ∧ (s.beaconLaws = true → t.beaconLaws = true)

/-- A frame's bits are the start bit, the identifier (8 times the class plus the sender), the length, the payload, the CRC
and the closing bit, each number most significant bit first; the CRC starts from zero and takes bit after bit with the
stated generator (how a bit enters the register is the model's reading, assumption 47). Every named value travels as its
stated code: kind classes, roles with side, entry states, resource sets and record states, step states, manoeuvres, halt
state and stop source, membership states, causes, outcomes, record kinds and requests; and the fields of every payload
stand in the stated order, fields of more bytes most significant byte first. A payload reads as some content exactly if
the content is in its ranges and the payload is the one built from it, so every other payload is malformed. For a step
record in a REPLY reading back is stated, and that the bytes of an absent end tag and height are not read; its plain
numbers are not judged (the model's reading, assumption 17). -/
def Obligations.PayloadsReadBack : Prop :=
  let bits (w n : Nat) : List Bool := (List.range w).map fun i => n.testBit (w - 1 - i)
  let weight (b : Bool) (w : Nat) : Nat := if b = true then w else 0
  let record (x : LogRec) (tag height : BitVec 16) : List Byte :=
    [byte x.kind.code] ++ bytes16 x.run ++
      [byte x.depth, byte (match x.man with | some m => m.code | none => 0), byte (x.idx.getD 0), byte x.outcome.code,
        byte (causeCode x.cause), byte x.retries] ++ bytes16 x.startTag ++ bytes16 tag ++
      [byte (weight x.endTag.isSome 1 + weight x.height.isSome 2)] ++ bytes16 height
  ((∀ n, (byte n).toNat = n % 256) ∧
    (∀ w : BitVec 16, bytes16 w = [byte (w.toNat / 256), byte w.toNat]) ∧
    (∀ w : BitVec 24, bytes24 w = [byte (w.toNat / 65536), byte (w.toNat / 256), byte w.toNat]) ∧
    (∀ (cls : Nat) (n : Node) (p : List Byte),
      checkedBits cls n p = bits 7 (8 * cls + n.val) ++ bits 6 p.length ++ p.flatMap (fun b => bits 8 b.toNat) ∧
      frameBits cls n p =
        [false] ++ checkedBits cls n p ++ bits 15 (crc15 (checkedBits cls n p)).toNat ++ [false]) ∧
    crc15 [] = 0 ∧
    ∀ (l : List Bool) (b : Bool),
      let generator : BitVec 15 := BitVec.ofNat 15 (([13, 11, 9, 7, 5, 3, 2, 0] : List Nat).map fun i => 2 ^ i).sum
      crc15 (l ++ [b]) =
        if (crc15 l).getLsbD 14 = b then crc15 l <<< 1 else (crc15 l <<< 1) ^^^ generator) ∧
  (([.halt, .clear, .evict, .yield, .claim, .snapshot, .join, .posture, .probe, .reply] : List Kind).map
      (fun k => (k.cls, k.isTable)) =
      [(0, true), (1, true), (2, true), (3, true), (4, true), (5, true), (6, true), (7, false), (8, false), (9, false)] ∧
    (∀ n k, Kind.ofCls n = some k ↔ k.cls = n) ∧
    ([.cab, .lift, .hatch .kerb, .hatch .road, .beacon] : List RoleSide).map RoleSide.code = [0, 2, 4, 5, 6] ∧
    ([.unknown, .joining, .member, .absent, .barred] : List EState).map EState.code = [0, 1, 2, 3, 4] ∧
    (∀ st r, rosterByte st r = byte (16 * st.code + match r with | some x => x.code | none => 8)) ∧
    (∀ r : ResSet, r.code = weight r.pump 1 + weight r.rear 2 + weight r.kerb 4 + weight r.road 8) ∧
    ([.arming, .leading, .opening, .priming, .driving, .stalled, .paused, .closing, .ended] : List StepState).map
      StepState.code = [1, 2, 3, 4, 5, 6, 7, 8, 9] ∧
    ([.unfold, .lower, .raise, .tiltDown, .tiltUp, .fold, .level, .openHatch, .closeHatch, .ease] : List Manoeuvre).map
      Manoeuvre.code = [1, 2, 3, 4, 5, 6, 7, 8, 9, 10] ∧
    ([.start, .listen, .joinWait, .member, .isolated, .barred, .unfit] : List MState).map MState.code =
      [0, 1, 2, 3, 4, 5, 6] ∧
    causeCode none = 0 ∧
    ([.limit, .interlockLost, .noPressure, .channelRefused, .driverFault, .nestRefused, .nestLimit, .nestedFailed
      , .claimLost, .latched, .notMember, .hasRecord, .badClaim, .panelConflict, .busy, .panelStop, .pendantStop
      , .linkRetries, .vetoGuard, .evicted, .diverged, .fitting, .roleLimit, .duplicate, .loopTest
      , .transmitGuard] : List Cause).map (fun x => causeCode (some x)) = List.range' 1 26 ∧
    ([.inProgress, .done, .skipped, .failedSkipped, .failed, .complete, .stopped, .lapsed, .refused, .switched, .halted
      , .isolated, .resync, .nested, .barred, .unfit, .cut] : List RunOutcome).map RunOutcome.code = List.range 17 ∧
    ([.step, .claimPhase, .request, .restart] : List RecKind).map RecKind.code = [0, 1, 2, 3]) ∧
  (haltPayload .panel = [0] ∧ haltPayload .pendant = [1] ∧
    (∀ h : HaltState, h.bytes = [match h.latch with | none => 0 | some n => byte (8 + n.val), byte h.count]) ∧
    (∀ x : Summary, x.bytes =
      [byte (16 * x.depth + match x.step with | some st => st.code | none => 0)
      , byte (match x.man with | some m => m.code | none => 0), byte x.idx]) ∧
    (∀ r : ClaimRec, r.bytes =
      [byte r.claimant.val, byte (r.set.code + match r.state with | .waiting => 0 | .granted => 16), byte r.units
      , byte r.man.code]) ∧
    ProbeReq.status.bytes = [0, 0] ∧ (∀ i, (ProbeReq.log i).bytes = [1, byte i.val]) ∧
    (∀ x : StatusSummary, x.bytes =
      [byte x.mstate.code, byte (causeCode x.cause)] ++ bytes16 x.conds ++ x.sum.bytes ++ x.halt.bytes ++ [x.take]) ∧
    (∀ x : LogRec, x.bytes = record x (x.endTag.getD 0) (BitVec.ofNat 16 (x.height.getD 0))) ∧
    (∀ m : ClaimMsg, m.payload = [byte m.set, byte m.units, byte m.man.code]) ∧
    (∀ m : JoinMsg, m.payload = [byte m.role.code, byte m.fit.val] ++ bytes24 m.serial) ∧
    (∀ m : PostureMsg, m.payload =
      [m.take, m.members] ++ bytes16 m.conds ++ m.sum.bytes ++ [byte (weight m.halted 1)] ++ bytes24 m.serial) ∧
    (∀ m : SnapMsg, m.payload =
      [byte m.subject.val, byte m.fit.val, m.take] ++ m.halt.bytes ++
        m.roster.toList.map (fun e => rosterByte e.1 e.2) ++ [byte m.claims.length] ++ m.claims.flatMap ClaimRec.bytes) ∧
    (∀ m : ProbeMsg, m.payload = [byte m.target.val] ++ m.req.bytes) ∧
    ∀ m : ReplyMsg, m.payload = [byte m.requester.val] ++ m.req.bytes ++
      match m.content with
      | .none => [0]
      | .summary x => 1 :: x.bytes
      | .record x => 2 :: x.bytes) ∧
  ∀ p : List Byte,
    (∀ x, readHaltPayload p = some x ↔ p = haltPayload x) ∧
    (readEmptyPayload p = some () ↔ p = []) ∧
    (∀ n : Node, readEvictPayload p = some n ↔ p = [byte n.val]) ∧
    (∀ m : ClaimMsg, readClaimPayload p = some m ↔ m.set < 256 ∧ m.units < 256 ∧ p = m.payload) ∧
    (∀ m : JoinMsg, readJoinPayload p = some m ↔ p = m.payload) ∧
    (∀ m : PostureMsg, readPosturePayload p = some m ↔ m.sum.inRange = true ∧ p = m.payload) ∧
    (∀ m : ProbeMsg, readProbePayload p = some m ↔ p = m.payload) ∧
    (∀ m : SnapMsg, readSnapPayload p = some m ↔
      m.halt.laws = true ∧ (∀ r ∈ m.claims, r.inRange = true) ∧ m.lawful = true ∧ p = m.payload) ∧
    (∀ (n : Node) (q : ProbeReq), readReplyPayload p = some ⟨n, q, .none⟩ ↔ p = ReplyMsg.payload ⟨n, q, .none⟩) ∧
    (∀ (n : Node) (q : ProbeReq) (x : StatusSummary), readReplyPayload p = some ⟨n, q, .summary x⟩ ↔
      q = .status ∧ x.sum.inRange = true ∧ x.halt.laws = true ∧ p = ReplyMsg.payload ⟨n, q, .summary x⟩) ∧
    ∀ (n : Node) (q : ProbeReq) (x : LogRec),
      (∀ i, q = .log i → x.inRange = true → p = ReplyMsg.payload ⟨n, q, .record x⟩ →
        readReplyPayload p = some ⟨n, q, .record x⟩) ∧
      (readReplyPayload p = some ⟨n, q, .record x⟩ →
        q ≠ .status ∧ (x.man = none → x.kind = .request ∨ x.kind = .restart) ∧
        ∃ tag height, p = [byte n.val] ++ q.bytes ++ [2] ++ record x tag height ∧
          x.endTag = (if x.endTag.isSome = true then some tag else none) ∧
          x.height = (if x.height.isSome = true then some height.toNat else none))

/-- Two MEMBERs that hold the same replica and process the same frame, a SNAPSHOT for either of them apart, hold the
same replica after it if both are still MEMBER, whatever their inputs, runs, marks and timers. -/
def Obligations.MembersProcessFramesAlike : Prop :=
  ∀ (s s' t t' : State) (r : RxRec), s.member.mstate = .member → s'.member.mstate = .member → sameReplica s s' →
    s.link.rx.head? = some r → s'.link.rx.head? = some r →
    (∀ m, r.kind = .snapshot → readSnapPayload r.payload = some m → m.subject ≠ s.own ∧ m.subject ≠ s'.own) →
    exec (frameCommand r.kind) s = .next t → exec (frameCommand r.kind) s' = .next t' →
    t.member.mstate = .member → t'.member.mstate = .member → sameReplica t t'
end

