-- ==== Sys2Proof/Laws/State.lean ====
section
/-! SUPPORT. One lemma per field per update of `State`: what an update sets, and every field it leaves. -/

namespace Sys2Proof.Laws

open Sys2Proof.Machine

@[simp] theorem setRun_straps (s : State) (r : Run) : (s.setRun r).straps = s.straps := rfl
@[simp] theorem setRun_serial (s : State) (r : Run) : (s.setRun r).serial = s.serial := rfl
@[simp] theorem setRun_link (s : State) (r : Run) : (s.setRun r).link = s.link := rfl
@[simp] theorem setRun_member (s : State) (r : Run) : (s.setRun r).member = s.member := rfl
@[simp] theorem setRun_table (s : State) (r : Run) : (s.setRun r).table = s.table := rfl
@[simp] theorem setRun_lines (s : State) (r : Run) : (s.setRun r).lines = s.lines := rfl
@[simp] theorem setRun_post (s : State) (r : Run) : (s.setRun r).post = s.post := rfl
@[simp] theorem setRun_runs (s : State) (r : Run) : (s.setRun r).runs = { s.runs with run := some r } := rfl
@[simp] theorem setRun_steps (s : State) (r : Run) : (s.setRun r).steps = s.steps := rfl
@[simp] theorem setRun_chans (s : State) (r : Run) : (s.setRun r).chans = s.chans := rfl
@[simp] theorem setRun_pump (s : State) (r : Run) : (s.setRun r).pump = s.pump := rfl
@[simp] theorem setRun_beacon (s : State) (r : Run) : (s.setRun r).beacon = s.beacon := rfl
@[simp] theorem setRun_cab (s : State) (r : Run) : (s.setRun r).cab = s.cab := rfl
@[simp] theorem setRun_nodeOk (s : State) (r : Run) : (s.setRun r).nodeOk = s.nodeOk := rfl
@[simp] theorem setRun_log (s : State) (r : Run) : (s.setRun r).log = s.log := rfl
@[simp] theorem setRun_port (s : State) (r : Run) : (s.setRun r).port = s.port := rfl
@[simp] theorem setRun_pending (s : State) (r : Run) : (s.setRun r).pending = s.pending := rfl

@[simp] theorem setSteps_straps (s : State) (u : StepUnit) : (s.setSteps u).straps = s.straps := rfl
@[simp] theorem setSteps_serial (s : State) (u : StepUnit) : (s.setSteps u).serial = s.serial := rfl
@[simp] theorem setSteps_link (s : State) (u : StepUnit) : (s.setSteps u).link = s.link := rfl
@[simp] theorem setSteps_member (s : State) (u : StepUnit) : (s.setSteps u).member = s.member := rfl
@[simp] theorem setSteps_table (s : State) (u : StepUnit) : (s.setSteps u).table = s.table := rfl
@[simp] theorem setSteps_lines (s : State) (u : StepUnit) : (s.setSteps u).lines = s.lines := rfl
@[simp] theorem setSteps_post (s : State) (u : StepUnit) : (s.setSteps u).post = s.post := rfl
@[simp] theorem setSteps_runs (s : State) (u : StepUnit) : (s.setSteps u).runs = s.runs := rfl
@[simp] theorem setSteps_steps (s : State) (u : StepUnit) : (s.setSteps u).steps = u := rfl
@[simp] theorem setSteps_chans (s : State) (u : StepUnit) : (s.setSteps u).chans = s.chans := rfl
@[simp] theorem setSteps_pump (s : State) (u : StepUnit) : (s.setSteps u).pump = s.pump := rfl
@[simp] theorem setSteps_beacon (s : State) (u : StepUnit) : (s.setSteps u).beacon = s.beacon := rfl
@[simp] theorem setSteps_cab (s : State) (u : StepUnit) : (s.setSteps u).cab = s.cab := rfl
@[simp] theorem setSteps_nodeOk (s : State) (u : StepUnit) : (s.setSteps u).nodeOk = s.nodeOk := rfl
@[simp] theorem setSteps_log (s : State) (u : StepUnit) : (s.setSteps u).log = s.log := rfl
@[simp] theorem setSteps_port (s : State) (u : StepUnit) : (s.setSteps u).port = s.port := rfl
@[simp] theorem setSteps_pending (s : State) (u : StepUnit) : (s.setSteps u).pending = s.pending := rfl

@[simp] theorem setClaims_straps (s : State) (l : List ClaimRec) : (s.setClaims l).straps = s.straps := rfl
@[simp] theorem setClaims_serial (s : State) (l : List ClaimRec) : (s.setClaims l).serial = s.serial := rfl
@[simp] theorem setClaims_link (s : State) (l : List ClaimRec) : (s.setClaims l).link = s.link := rfl
@[simp] theorem setClaims_member (s : State) (l : List ClaimRec) : (s.setClaims l).member = s.member := rfl
@[simp] theorem setClaims_table (s : State) (l : List ClaimRec) : (s.setClaims l).table = { s.table with claims := l } := rfl
@[simp] theorem setClaims_lines (s : State) (l : List ClaimRec) : (s.setClaims l).lines = s.lines := rfl
@[simp] theorem setClaims_post (s : State) (l : List ClaimRec) : (s.setClaims l).post = s.post := rfl
@[simp] theorem setClaims_runs (s : State) (l : List ClaimRec) : (s.setClaims l).runs = s.runs := rfl
@[simp] theorem setClaims_steps (s : State) (l : List ClaimRec) : (s.setClaims l).steps = s.steps := rfl
@[simp] theorem setClaims_chans (s : State) (l : List ClaimRec) : (s.setClaims l).chans = s.chans := rfl
@[simp] theorem setClaims_pump (s : State) (l : List ClaimRec) : (s.setClaims l).pump = s.pump := rfl
@[simp] theorem setClaims_beacon (s : State) (l : List ClaimRec) : (s.setClaims l).beacon = s.beacon := rfl
@[simp] theorem setClaims_cab (s : State) (l : List ClaimRec) : (s.setClaims l).cab = s.cab := rfl
@[simp] theorem setClaims_nodeOk (s : State) (l : List ClaimRec) : (s.setClaims l).nodeOk = s.nodeOk := rfl
@[simp] theorem setClaims_log (s : State) (l : List ClaimRec) : (s.setClaims l).log = s.log := rfl
@[simp] theorem setClaims_port (s : State) (l : List ClaimRec) : (s.setClaims l).port = s.port := rfl
@[simp] theorem setClaims_pending (s : State) (l : List ClaimRec) : (s.setClaims l).pending = s.pending := rfl

@[simp] theorem setEntry_straps (s : State) (n : Node) (e : Entry) : (s.setEntry n e).straps = s.straps := rfl
@[simp] theorem setEntry_serial (s : State) (n : Node) (e : Entry) : (s.setEntry n e).serial = s.serial := rfl
@[simp] theorem setEntry_link (s : State) (n : Node) (e : Entry) : (s.setEntry n e).link = s.link := rfl
@[simp] theorem setEntry_member (s : State) (n : Node) (e : Entry) : (s.setEntry n e).member = { s.member with roster := s.member.roster.set n e } := rfl
@[simp] theorem setEntry_table (s : State) (n : Node) (e : Entry) : (s.setEntry n e).table = s.table := rfl
@[simp] theorem setEntry_lines (s : State) (n : Node) (e : Entry) : (s.setEntry n e).lines = s.lines := rfl
@[simp] theorem setEntry_post (s : State) (n : Node) (e : Entry) : (s.setEntry n e).post = s.post := rfl
@[simp] theorem setEntry_runs (s : State) (n : Node) (e : Entry) : (s.setEntry n e).runs = s.runs := rfl
@[simp] theorem setEntry_steps (s : State) (n : Node) (e : Entry) : (s.setEntry n e).steps = s.steps := rfl
@[simp] theorem setEntry_chans (s : State) (n : Node) (e : Entry) : (s.setEntry n e).chans = s.chans := rfl
@[simp] theorem setEntry_pump (s : State) (n : Node) (e : Entry) : (s.setEntry n e).pump = s.pump := rfl
@[simp] theorem setEntry_beacon (s : State) (n : Node) (e : Entry) : (s.setEntry n e).beacon = s.beacon := rfl
@[simp] theorem setEntry_cab (s : State) (n : Node) (e : Entry) : (s.setEntry n e).cab = s.cab := rfl
@[simp] theorem setEntry_nodeOk (s : State) (n : Node) (e : Entry) : (s.setEntry n e).nodeOk = s.nodeOk := rfl
@[simp] theorem setEntry_log (s : State) (n : Node) (e : Entry) : (s.setEntry n e).log = s.log := rfl
@[simp] theorem setEntry_port (s : State) (n : Node) (e : Entry) : (s.setEntry n e).port = s.port := rfl
@[simp] theorem setEntry_pending (s : State) (n : Node) (e : Entry) : (s.setEntry n e).pending = s.pending := rfl

@[simp] theorem mapRoster_straps (s : State) (f : Node → Entry → Entry) : (s.mapRoster f).straps = s.straps := rfl
@[simp] theorem mapRoster_serial (s : State) (f : Node → Entry → Entry) : (s.mapRoster f).serial = s.serial := rfl
@[simp] theorem mapRoster_link (s : State) (f : Node → Entry → Entry) : (s.mapRoster f).link = s.link := rfl
@[simp] theorem mapRoster_table (s : State) (f : Node → Entry → Entry) : (s.mapRoster f).table = s.table := rfl
@[simp] theorem mapRoster_lines (s : State) (f : Node → Entry → Entry) : (s.mapRoster f).lines = s.lines := rfl
@[simp] theorem mapRoster_post (s : State) (f : Node → Entry → Entry) : (s.mapRoster f).post = s.post := rfl
@[simp] theorem mapRoster_runs (s : State) (f : Node → Entry → Entry) : (s.mapRoster f).runs = s.runs := rfl
@[simp] theorem mapRoster_steps (s : State) (f : Node → Entry → Entry) : (s.mapRoster f).steps = s.steps := rfl
@[simp] theorem mapRoster_chans (s : State) (f : Node → Entry → Entry) : (s.mapRoster f).chans = s.chans := rfl
@[simp] theorem mapRoster_pump (s : State) (f : Node → Entry → Entry) : (s.mapRoster f).pump = s.pump := rfl
@[simp] theorem mapRoster_beacon (s : State) (f : Node → Entry → Entry) : (s.mapRoster f).beacon = s.beacon := rfl
@[simp] theorem mapRoster_cab (s : State) (f : Node → Entry → Entry) : (s.mapRoster f).cab = s.cab := rfl
@[simp] theorem mapRoster_nodeOk (s : State) (f : Node → Entry → Entry) : (s.mapRoster f).nodeOk = s.nodeOk := rfl
@[simp] theorem mapRoster_log (s : State) (f : Node → Entry → Entry) : (s.mapRoster f).log = s.log := rfl
@[simp] theorem mapRoster_port (s : State) (f : Node → Entry → Entry) : (s.mapRoster f).port = s.port := rfl
@[simp] theorem mapRoster_pending (s : State) (f : Node → Entry → Entry) : (s.mapRoster f).pending = s.pending := rfl

@[simp] theorem setOwed_straps (s : State) (n : Node) (b : Bool) : (s.setOwed n b).straps = s.straps := rfl
@[simp] theorem setOwed_serial (s : State) (n : Node) (b : Bool) : (s.setOwed n b).serial = s.serial := rfl
@[simp] theorem setOwed_link (s : State) (n : Node) (b : Bool) : (s.setOwed n b).link = s.link := rfl
@[simp] theorem setOwed_member (s : State) (n : Node) (b : Bool) : (s.setOwed n b).member = { s.member with owed := s.member.owed.set n b } := rfl
@[simp] theorem setOwed_table (s : State) (n : Node) (b : Bool) : (s.setOwed n b).table = s.table := rfl
@[simp] theorem setOwed_lines (s : State) (n : Node) (b : Bool) : (s.setOwed n b).lines = s.lines := rfl
@[simp] theorem setOwed_post (s : State) (n : Node) (b : Bool) : (s.setOwed n b).post = s.post := rfl
@[simp] theorem setOwed_runs (s : State) (n : Node) (b : Bool) : (s.setOwed n b).runs = s.runs := rfl
@[simp] theorem setOwed_steps (s : State) (n : Node) (b : Bool) : (s.setOwed n b).steps = s.steps := rfl
@[simp] theorem setOwed_chans (s : State) (n : Node) (b : Bool) : (s.setOwed n b).chans = s.chans := rfl
@[simp] theorem setOwed_pump (s : State) (n : Node) (b : Bool) : (s.setOwed n b).pump = s.pump := rfl
@[simp] theorem setOwed_beacon (s : State) (n : Node) (b : Bool) : (s.setOwed n b).beacon = s.beacon := rfl
@[simp] theorem setOwed_cab (s : State) (n : Node) (b : Bool) : (s.setOwed n b).cab = s.cab := rfl
@[simp] theorem setOwed_nodeOk (s : State) (n : Node) (b : Bool) : (s.setOwed n b).nodeOk = s.nodeOk := rfl
@[simp] theorem setOwed_log (s : State) (n : Node) (b : Bool) : (s.setOwed n b).log = s.log := rfl
@[simp] theorem setOwed_port (s : State) (n : Node) (b : Bool) : (s.setOwed n b).port = s.port := rfl
@[simp] theorem setOwed_pending (s : State) (n : Node) (b : Bool) : (s.setOwed n b).pending = s.pending := rfl

@[simp] theorem command_straps (s : State) (c : Chan) (x : ChanCmd) : (s.command c x).straps = s.straps := rfl
@[simp] theorem command_serial (s : State) (c : Chan) (x : ChanCmd) : (s.command c x).serial = s.serial := rfl
@[simp] theorem command_link (s : State) (c : Chan) (x : ChanCmd) : (s.command c x).link = s.link := rfl
@[simp] theorem command_member (s : State) (c : Chan) (x : ChanCmd) : (s.command c x).member = s.member := rfl
@[simp] theorem command_table (s : State) (c : Chan) (x : ChanCmd) : (s.command c x).table = s.table := rfl
@[simp] theorem command_lines (s : State) (c : Chan) (x : ChanCmd) : (s.command c x).lines = s.lines := rfl
@[simp] theorem command_post (s : State) (c : Chan) (x : ChanCmd) : (s.command c x).post = s.post := rfl
@[simp] theorem command_runs (s : State) (c : Chan) (x : ChanCmd) : (s.command c x).runs = s.runs := rfl
@[simp] theorem command_steps (s : State) (c : Chan) (x : ChanCmd) : (s.command c x).steps = s.steps := rfl
@[simp] theorem command_chans (s : State) (c : Chan) (x : ChanCmd) : (s.command c x).chans = s.chans.set c ((s.chans.get c).after x) := rfl
@[simp] theorem command_pump (s : State) (c : Chan) (x : ChanCmd) : (s.command c x).pump = s.pump := rfl
@[simp] theorem command_beacon (s : State) (c : Chan) (x : ChanCmd) : (s.command c x).beacon = s.beacon := rfl
@[simp] theorem command_cab (s : State) (c : Chan) (x : ChanCmd) : (s.command c x).cab = s.cab := rfl
@[simp] theorem command_nodeOk (s : State) (c : Chan) (x : ChanCmd) : (s.command c x).nodeOk = s.nodeOk := rfl
@[simp] theorem command_log (s : State) (c : Chan) (x : ChanCmd) : (s.command c x).log = s.log := rfl
@[simp] theorem command_port (s : State) (c : Chan) (x : ChanCmd) : (s.command c x).port = s.port := rfl
@[simp] theorem command_pending (s : State) (c : Chan) (x : ChanCmd) : (s.command c x).pending = s.pending := rfl

@[simp] theorem relieveAll_straps (s : State) : (s.relieveAll).straps = s.straps := rfl
@[simp] theorem relieveAll_serial (s : State) : (s.relieveAll).serial = s.serial := rfl
@[simp] theorem relieveAll_link (s : State) : (s.relieveAll).link = s.link := rfl
@[simp] theorem relieveAll_member (s : State) : (s.relieveAll).member = s.member := rfl
@[simp] theorem relieveAll_table (s : State) : (s.relieveAll).table = s.table := rfl
@[simp] theorem relieveAll_lines (s : State) : (s.relieveAll).lines = s.lines := rfl
@[simp] theorem relieveAll_post (s : State) : (s.relieveAll).post = s.post := rfl
@[simp] theorem relieveAll_runs (s : State) : (s.relieveAll).runs = s.runs := rfl
@[simp] theorem relieveAll_steps (s : State) : (s.relieveAll).steps = s.steps := rfl
@[simp] theorem relieveAll_chans (s : State) : (s.relieveAll).chans = s.chans.each fun c => c.after .relieve := rfl
@[simp] theorem relieveAll_pump (s : State) : (s.relieveAll).pump = s.pump := rfl
@[simp] theorem relieveAll_beacon (s : State) : (s.relieveAll).beacon = s.beacon := rfl
@[simp] theorem relieveAll_cab (s : State) : (s.relieveAll).cab = s.cab := rfl
@[simp] theorem relieveAll_nodeOk (s : State) : (s.relieveAll).nodeOk = s.nodeOk := rfl
@[simp] theorem relieveAll_log (s : State) : (s.relieveAll).log = s.log := rfl
@[simp] theorem relieveAll_port (s : State) : (s.relieveAll).port = s.port := rfl
@[simp] theorem relieveAll_pending (s : State) : (s.relieveAll).pending = s.pending := rfl

@[simp] theorem holdDriving_straps (s : State) : (s.holdDriving).straps = s.straps := rfl
@[simp] theorem holdDriving_serial (s : State) : (s.holdDriving).serial = s.serial := rfl
@[simp] theorem holdDriving_link (s : State) : (s.holdDriving).link = s.link := rfl
@[simp] theorem holdDriving_member (s : State) : (s.holdDriving).member = s.member := rfl
@[simp] theorem holdDriving_table (s : State) : (s.holdDriving).table = s.table := rfl
@[simp] theorem holdDriving_lines (s : State) : (s.holdDriving).lines = s.lines := rfl
@[simp] theorem holdDriving_post (s : State) : (s.holdDriving).post = s.post := rfl
@[simp] theorem holdDriving_runs (s : State) : (s.holdDriving).runs = s.runs := rfl
@[simp] theorem holdDriving_steps (s : State) : (s.holdDriving).steps = s.steps := rfl
@[simp] theorem holdDriving_pump (s : State) : (s.holdDriving).pump = s.pump := rfl
@[simp] theorem holdDriving_beacon (s : State) : (s.holdDriving).beacon = s.beacon := rfl
@[simp] theorem holdDriving_cab (s : State) : (s.holdDriving).cab = s.cab := rfl
@[simp] theorem holdDriving_nodeOk (s : State) : (s.holdDriving).nodeOk = s.nodeOk := rfl
@[simp] theorem holdDriving_log (s : State) : (s.holdDriving).log = s.log := rfl
@[simp] theorem holdDriving_port (s : State) : (s.holdDriving).port = s.port := rfl
@[simp] theorem holdDriving_pending (s : State) : (s.holdDriving).pending = s.pending := rfl

@[simp] theorem writeRec_straps (s : State) (r : LogRec) : (s.writeRec r).straps = s.straps := rfl
@[simp] theorem writeRec_serial (s : State) (r : LogRec) : (s.writeRec r).serial = s.serial := rfl
@[simp] theorem writeRec_link (s : State) (r : LogRec) : (s.writeRec r).link = s.link := rfl
@[simp] theorem writeRec_member (s : State) (r : LogRec) : (s.writeRec r).member = s.member := rfl
@[simp] theorem writeRec_table (s : State) (r : LogRec) : (s.writeRec r).table = s.table := rfl
@[simp] theorem writeRec_lines (s : State) (r : LogRec) : (s.writeRec r).lines = s.lines := rfl
@[simp] theorem writeRec_post (s : State) (r : LogRec) : (s.writeRec r).post = s.post := rfl
@[simp] theorem writeRec_runs (s : State) (r : LogRec) : (s.writeRec r).runs = s.runs := rfl
@[simp] theorem writeRec_steps (s : State) (r : LogRec) : (s.writeRec r).steps = s.steps := rfl
@[simp] theorem writeRec_chans (s : State) (r : LogRec) : (s.writeRec r).chans = s.chans := rfl
@[simp] theorem writeRec_pump (s : State) (r : LogRec) : (s.writeRec r).pump = s.pump := rfl
@[simp] theorem writeRec_beacon (s : State) (r : LogRec) : (s.writeRec r).beacon = s.beacon := rfl
@[simp] theorem writeRec_cab (s : State) (r : LogRec) : (s.writeRec r).cab = s.cab := rfl
@[simp] theorem writeRec_nodeOk (s : State) (r : LogRec) : (s.writeRec r).nodeOk = s.nodeOk := rfl
@[simp] theorem writeRec_port (s : State) (r : LogRec) : (s.writeRec r).port = s.port := rfl
@[simp] theorem writeRec_pending (s : State) (r : LogRec) : (s.writeRec r).pending = s.pending := rfl

@[simp] theorem changeOpen_straps (s : State) (f : LogRec → LogRec) : (s.changeOpen f).straps = s.straps := rfl
@[simp] theorem changeOpen_serial (s : State) (f : LogRec → LogRec) : (s.changeOpen f).serial = s.serial := rfl
@[simp] theorem changeOpen_link (s : State) (f : LogRec → LogRec) : (s.changeOpen f).link = s.link := rfl
@[simp] theorem changeOpen_member (s : State) (f : LogRec → LogRec) : (s.changeOpen f).member = s.member := rfl
@[simp] theorem changeOpen_table (s : State) (f : LogRec → LogRec) : (s.changeOpen f).table = s.table := rfl
@[simp] theorem changeOpen_lines (s : State) (f : LogRec → LogRec) : (s.changeOpen f).lines = s.lines := rfl
@[simp] theorem changeOpen_post (s : State) (f : LogRec → LogRec) : (s.changeOpen f).post = s.post := rfl
@[simp] theorem changeOpen_runs (s : State) (f : LogRec → LogRec) : (s.changeOpen f).runs = s.runs := rfl
@[simp] theorem changeOpen_steps (s : State) (f : LogRec → LogRec) : (s.changeOpen f).steps = s.steps := rfl
@[simp] theorem changeOpen_chans (s : State) (f : LogRec → LogRec) : (s.changeOpen f).chans = s.chans := rfl
@[simp] theorem changeOpen_pump (s : State) (f : LogRec → LogRec) : (s.changeOpen f).pump = s.pump := rfl
@[simp] theorem changeOpen_beacon (s : State) (f : LogRec → LogRec) : (s.changeOpen f).beacon = s.beacon := rfl
@[simp] theorem changeOpen_cab (s : State) (f : LogRec → LogRec) : (s.changeOpen f).cab = s.cab := rfl
@[simp] theorem changeOpen_nodeOk (s : State) (f : LogRec → LogRec) : (s.changeOpen f).nodeOk = s.nodeOk := rfl
@[simp] theorem changeOpen_port (s : State) (f : LogRec → LogRec) : (s.changeOpen f).port = s.port := rfl
@[simp] theorem changeOpen_pending (s : State) (f : LogRec → LogRec) : (s.changeOpen f).pending = s.pending := rfl

@[simp] theorem withdraw_straps (s : State) (k : Kind) (x : Option Node) : (s.withdraw k x).straps = s.straps := rfl
@[simp] theorem withdraw_serial (s : State) (k : Kind) (x : Option Node) : (s.withdraw k x).serial = s.serial := rfl
@[simp] theorem withdraw_link (s : State) (k : Kind) (x : Option Node) : (s.withdraw k x).link = { s.link with tx := withdrawIn s.link.line s.link.tx k x } := rfl
@[simp] theorem withdraw_member (s : State) (k : Kind) (x : Option Node) : (s.withdraw k x).member = s.member := rfl
@[simp] theorem withdraw_table (s : State) (k : Kind) (x : Option Node) : (s.withdraw k x).table = s.table := rfl
@[simp] theorem withdraw_lines (s : State) (k : Kind) (x : Option Node) : (s.withdraw k x).lines = s.lines := rfl
@[simp] theorem withdraw_post (s : State) (k : Kind) (x : Option Node) : (s.withdraw k x).post = s.post := rfl
@[simp] theorem withdraw_runs (s : State) (k : Kind) (x : Option Node) : (s.withdraw k x).runs = s.runs := rfl
@[simp] theorem withdraw_steps (s : State) (k : Kind) (x : Option Node) : (s.withdraw k x).steps = s.steps := rfl
@[simp] theorem withdraw_chans (s : State) (k : Kind) (x : Option Node) : (s.withdraw k x).chans = s.chans := rfl
@[simp] theorem withdraw_pump (s : State) (k : Kind) (x : Option Node) : (s.withdraw k x).pump = s.pump := rfl
@[simp] theorem withdraw_beacon (s : State) (k : Kind) (x : Option Node) : (s.withdraw k x).beacon = s.beacon := rfl
@[simp] theorem withdraw_cab (s : State) (k : Kind) (x : Option Node) : (s.withdraw k x).cab = s.cab := rfl
@[simp] theorem withdraw_nodeOk (s : State) (k : Kind) (x : Option Node) : (s.withdraw k x).nodeOk = s.nodeOk := rfl
@[simp] theorem withdraw_log (s : State) (k : Kind) (x : Option Node) : (s.withdraw k x).log = s.log := rfl
@[simp] theorem withdraw_port (s : State) (k : Kind) (x : Option Node) : (s.withdraw k x).port = s.port := rfl
@[simp] theorem withdraw_pending (s : State) (k : Kind) (x : Option Node) : (s.withdraw k x).pending = s.pending := rfl

@[simp] theorem withPending_straps (s : State) (q : List Instr) : (s.withPending q).straps = s.straps := rfl
@[simp] theorem withPending_serial (s : State) (q : List Instr) : (s.withPending q).serial = s.serial := rfl
@[simp] theorem withPending_link (s : State) (q : List Instr) : (s.withPending q).link = s.link := rfl
@[simp] theorem withPending_member (s : State) (q : List Instr) : (s.withPending q).member = s.member := rfl
@[simp] theorem withPending_table (s : State) (q : List Instr) : (s.withPending q).table = s.table := rfl
@[simp] theorem withPending_lines (s : State) (q : List Instr) : (s.withPending q).lines = s.lines := rfl
@[simp] theorem withPending_post (s : State) (q : List Instr) : (s.withPending q).post = s.post := rfl
@[simp] theorem withPending_runs (s : State) (q : List Instr) : (s.withPending q).runs = s.runs := rfl
@[simp] theorem withPending_steps (s : State) (q : List Instr) : (s.withPending q).steps = s.steps := rfl
@[simp] theorem withPending_chans (s : State) (q : List Instr) : (s.withPending q).chans = s.chans := rfl
@[simp] theorem withPending_pump (s : State) (q : List Instr) : (s.withPending q).pump = s.pump := rfl
@[simp] theorem withPending_beacon (s : State) (q : List Instr) : (s.withPending q).beacon = s.beacon := rfl
@[simp] theorem withPending_cab (s : State) (q : List Instr) : (s.withPending q).cab = s.cab := rfl
@[simp] theorem withPending_nodeOk (s : State) (q : List Instr) : (s.withPending q).nodeOk = s.nodeOk := rfl
@[simp] theorem withPending_log (s : State) (q : List Instr) : (s.withPending q).log = s.log := rfl
@[simp] theorem withPending_port (s : State) (q : List Instr) : (s.withPending q).port = s.port := rfl
@[simp] theorem withPending_pending (s : State) (q : List Instr) : (s.withPending q).pending = q := rfl

@[simp] theorem setInput_straps (s : State) (i : Fin 16) (x : Input) : (s.setInput i x).straps = s.straps := rfl
@[simp] theorem setInput_serial (s : State) (i : Fin 16) (x : Input) : (s.setInput i x).serial = s.serial := rfl
@[simp] theorem setInput_link (s : State) (i : Fin 16) (x : Input) : (s.setInput i x).link = s.link := rfl
@[simp] theorem setInput_member (s : State) (i : Fin 16) (x : Input) : (s.setInput i x).member = s.member := rfl
@[simp] theorem setInput_table (s : State) (i : Fin 16) (x : Input) : (s.setInput i x).table = s.table := rfl
@[simp] theorem setInput_lines (s : State) (i : Fin 16) (x : Input) : (s.setInput i x).lines = { s.lines with inputs := s.lines.inputs.set i x } := rfl
@[simp] theorem setInput_post (s : State) (i : Fin 16) (x : Input) : (s.setInput i x).post = s.post := rfl
@[simp] theorem setInput_runs (s : State) (i : Fin 16) (x : Input) : (s.setInput i x).runs = s.runs := rfl
@[simp] theorem setInput_steps (s : State) (i : Fin 16) (x : Input) : (s.setInput i x).steps = s.steps := rfl
@[simp] theorem setInput_chans (s : State) (i : Fin 16) (x : Input) : (s.setInput i x).chans = s.chans := rfl
@[simp] theorem setInput_pump (s : State) (i : Fin 16) (x : Input) : (s.setInput i x).pump = s.pump := rfl
@[simp] theorem setInput_beacon (s : State) (i : Fin 16) (x : Input) : (s.setInput i x).beacon = s.beacon := rfl
@[simp] theorem setInput_cab (s : State) (i : Fin 16) (x : Input) : (s.setInput i x).cab = s.cab := rfl
@[simp] theorem setInput_nodeOk (s : State) (i : Fin 16) (x : Input) : (s.setInput i x).nodeOk = s.nodeOk := rfl
@[simp] theorem setInput_log (s : State) (i : Fin 16) (x : Input) : (s.setInput i x).log = s.log := rfl
@[simp] theorem setInput_port (s : State) (i : Fin 16) (x : Input) : (s.setInput i x).port = s.port := rfl
@[simp] theorem setInput_pending (s : State) (i : Fin 16) (x : Input) : (s.setInput i x).pending = s.pending := rfl

@[simp] theorem setHeld_straps (s : State) (h : HeldDetector) : (s.setHeld h).straps = s.straps := rfl
@[simp] theorem setHeld_serial (s : State) (h : HeldDetector) : (s.setHeld h).serial = s.serial := rfl
@[simp] theorem setHeld_link (s : State) (h : HeldDetector) : (s.setHeld h).link = s.link := rfl
@[simp] theorem setHeld_member (s : State) (h : HeldDetector) : (s.setHeld h).member = s.member := rfl
@[simp] theorem setHeld_table (s : State) (h : HeldDetector) : (s.setHeld h).table = s.table := rfl
@[simp] theorem setHeld_lines (s : State) (h : HeldDetector) : (s.setHeld h).lines = { s.lines with held := h } := rfl
@[simp] theorem setHeld_post (s : State) (h : HeldDetector) : (s.setHeld h).post = s.post := rfl
@[simp] theorem setHeld_runs (s : State) (h : HeldDetector) : (s.setHeld h).runs = s.runs := rfl
@[simp] theorem setHeld_steps (s : State) (h : HeldDetector) : (s.setHeld h).steps = s.steps := rfl
@[simp] theorem setHeld_chans (s : State) (h : HeldDetector) : (s.setHeld h).chans = s.chans := rfl
@[simp] theorem setHeld_pump (s : State) (h : HeldDetector) : (s.setHeld h).pump = s.pump := rfl
@[simp] theorem setHeld_beacon (s : State) (h : HeldDetector) : (s.setHeld h).beacon = s.beacon := rfl
@[simp] theorem setHeld_cab (s : State) (h : HeldDetector) : (s.setHeld h).cab = s.cab := rfl
@[simp] theorem setHeld_nodeOk (s : State) (h : HeldDetector) : (s.setHeld h).nodeOk = s.nodeOk := rfl
@[simp] theorem setHeld_log (s : State) (h : HeldDetector) : (s.setHeld h).log = s.log := rfl
@[simp] theorem setHeld_port (s : State) (h : HeldDetector) : (s.setHeld h).port = s.port := rfl
@[simp] theorem setHeld_pending (s : State) (h : HeldDetector) : (s.setHeld h).pending = s.pending := rfl

@[simp] theorem setHeight_straps (s : State) (h : Nat) : (s.setHeight h).straps = s.straps := rfl
@[simp] theorem setHeight_serial (s : State) (h : Nat) : (s.setHeight h).serial = s.serial := rfl
@[simp] theorem setHeight_link (s : State) (h : Nat) : (s.setHeight h).link = s.link := rfl
@[simp] theorem setHeight_member (s : State) (h : Nat) : (s.setHeight h).member = s.member := rfl
@[simp] theorem setHeight_table (s : State) (h : Nat) : (s.setHeight h).table = s.table := rfl
@[simp] theorem setHeight_lines (s : State) (h : Nat) : (s.setHeight h).lines = { s.lines with height := some h } := rfl
@[simp] theorem setHeight_post (s : State) (h : Nat) : (s.setHeight h).post = s.post := rfl
@[simp] theorem setHeight_runs (s : State) (h : Nat) : (s.setHeight h).runs = s.runs := rfl
@[simp] theorem setHeight_steps (s : State) (h : Nat) : (s.setHeight h).steps = s.steps := rfl
@[simp] theorem setHeight_chans (s : State) (h : Nat) : (s.setHeight h).chans = s.chans := rfl
@[simp] theorem setHeight_pump (s : State) (h : Nat) : (s.setHeight h).pump = s.pump := rfl
@[simp] theorem setHeight_beacon (s : State) (h : Nat) : (s.setHeight h).beacon = s.beacon := rfl
@[simp] theorem setHeight_cab (s : State) (h : Nat) : (s.setHeight h).cab = s.cab := rfl
@[simp] theorem setHeight_nodeOk (s : State) (h : Nat) : (s.setHeight h).nodeOk = s.nodeOk := rfl
@[simp] theorem setHeight_log (s : State) (h : Nat) : (s.setHeight h).log = s.log := rfl
@[simp] theorem setHeight_port (s : State) (h : Nat) : (s.setHeight h).port = s.port := rfl
@[simp] theorem setHeight_pending (s : State) (h : Nat) : (s.setHeight h).pending = s.pending := rfl

@[simp] theorem answer_straps (s : State) (l : List AnswerLine) : (s.answer l).straps = s.straps := rfl
@[simp] theorem answer_serial (s : State) (l : List AnswerLine) : (s.answer l).serial = s.serial := rfl
@[simp] theorem answer_link (s : State) (l : List AnswerLine) : (s.answer l).link = s.link := rfl
@[simp] theorem answer_member (s : State) (l : List AnswerLine) : (s.answer l).member = s.member := rfl
@[simp] theorem answer_table (s : State) (l : List AnswerLine) : (s.answer l).table = s.table := rfl
@[simp] theorem answer_lines (s : State) (l : List AnswerLine) : (s.answer l).lines = s.lines := rfl
@[simp] theorem answer_post (s : State) (l : List AnswerLine) : (s.answer l).post = s.post := rfl
@[simp] theorem answer_runs (s : State) (l : List AnswerLine) : (s.answer l).runs = s.runs := rfl
@[simp] theorem answer_steps (s : State) (l : List AnswerLine) : (s.answer l).steps = s.steps := rfl
@[simp] theorem answer_chans (s : State) (l : List AnswerLine) : (s.answer l).chans = s.chans := rfl
@[simp] theorem answer_pump (s : State) (l : List AnswerLine) : (s.answer l).pump = s.pump := rfl
@[simp] theorem answer_beacon (s : State) (l : List AnswerLine) : (s.answer l).beacon = s.beacon := rfl
@[simp] theorem answer_cab (s : State) (l : List AnswerLine) : (s.answer l).cab = s.cab := rfl
@[simp] theorem answer_nodeOk (s : State) (l : List AnswerLine) : (s.answer l).nodeOk = s.nodeOk := rfl
@[simp] theorem answer_log (s : State) (l : List AnswerLine) : (s.answer l).log = s.log := rfl
@[simp] theorem answer_port (s : State) (l : List AnswerLine) : (s.answer l).port = { s.port with answer := .sending l } := rfl
@[simp] theorem answer_pending (s : State) (l : List AnswerLine) : (s.answer l).pending = s.pending := rfl

@[simp] theorem restartPeriod_straps (s : State) : (s.restartPeriod).straps = s.straps := rfl
@[simp] theorem restartPeriod_serial (s : State) : (s.restartPeriod).serial = s.serial := rfl
@[simp] theorem restartPeriod_link (s : State) : (s.restartPeriod).link = s.link := rfl
@[simp] theorem restartPeriod_member (s : State) : (s.restartPeriod).member = s.member := rfl
@[simp] theorem restartPeriod_table (s : State) : (s.restartPeriod).table = s.table := rfl
@[simp] theorem restartPeriod_lines (s : State) : (s.restartPeriod).lines = s.lines := rfl
@[simp] theorem restartPeriod_post (s : State) : (s.restartPeriod).post = { s.post with period := some posturePeriodMs } := rfl
@[simp] theorem restartPeriod_runs (s : State) : (s.restartPeriod).runs = s.runs := rfl
@[simp] theorem restartPeriod_steps (s : State) : (s.restartPeriod).steps = s.steps := rfl
@[simp] theorem restartPeriod_chans (s : State) : (s.restartPeriod).chans = s.chans := rfl
@[simp] theorem restartPeriod_pump (s : State) : (s.restartPeriod).pump = s.pump := rfl
@[simp] theorem restartPeriod_beacon (s : State) : (s.restartPeriod).beacon = s.beacon := rfl
@[simp] theorem restartPeriod_cab (s : State) : (s.restartPeriod).cab = s.cab := rfl
@[simp] theorem restartPeriod_nodeOk (s : State) : (s.restartPeriod).nodeOk = s.nodeOk := rfl
@[simp] theorem restartPeriod_log (s : State) : (s.restartPeriod).log = s.log := rfl
@[simp] theorem restartPeriod_port (s : State) : (s.restartPeriod).port = s.port := rfl
@[simp] theorem restartPeriod_pending (s : State) : (s.restartPeriod).pending = s.pending := rfl

@[simp] theorem markChange_straps (s : State) : s.markChange.straps = s.straps := rfl
@[simp] theorem markChange_serial (s : State) : s.markChange.serial = s.serial := rfl
@[simp] theorem markChange_link (s : State) : s.markChange.link = s.link := rfl
@[simp] theorem markChange_member (s : State) : s.markChange.member = s.member := rfl
@[simp] theorem markChange_table (s : State) : s.markChange.table = s.table := rfl
@[simp] theorem markChange_lines (s : State) : s.markChange.lines = s.lines := rfl
@[simp] theorem markChange_post (s : State) : s.markChange.post = { s.post with changed := true } := rfl
@[simp] theorem markChange_runs (s : State) : s.markChange.runs = s.runs := rfl
@[simp] theorem markChange_steps (s : State) : s.markChange.steps = s.steps := rfl
@[simp] theorem markChange_chans (s : State) : s.markChange.chans = s.chans := rfl
@[simp] theorem markChange_pump (s : State) : s.markChange.pump = s.pump := rfl
@[simp] theorem markChange_beacon (s : State) : s.markChange.beacon = s.beacon := rfl
@[simp] theorem markChange_cab (s : State) : s.markChange.cab = s.cab := rfl
@[simp] theorem markChange_nodeOk (s : State) : s.markChange.nodeOk = s.nodeOk := rfl
@[simp] theorem markChange_log (s : State) : s.markChange.log = s.log := rfl
@[simp] theorem markChange_port (s : State) : s.markChange.port = s.port := rfl
@[simp] theorem markChange_pending (s : State) : s.markChange.pending = s.pending := rfl

@[simp] theorem setDriveTime_straps (s : State) (ms : Nat) : (s.setDriveTime ms).straps = s.straps := rfl
@[simp] theorem setDriveTime_serial (s : State) (ms : Nat) : (s.setDriveTime ms).serial = s.serial := rfl
@[simp] theorem setDriveTime_link (s : State) (ms : Nat) : (s.setDriveTime ms).link = s.link := rfl
@[simp] theorem setDriveTime_member (s : State) (ms : Nat) : (s.setDriveTime ms).member = s.member := rfl
@[simp] theorem setDriveTime_table (s : State) (ms : Nat) : (s.setDriveTime ms).table = s.table := rfl
@[simp] theorem setDriveTime_lines (s : State) (ms : Nat) : (s.setDriveTime ms).lines = s.lines := rfl
@[simp] theorem setDriveTime_post (s : State) (ms : Nat) : (s.setDriveTime ms).post = s.post := rfl
@[simp] theorem setDriveTime_runs (s : State) (ms : Nat) : (s.setDriveTime ms).runs = s.runs := rfl
@[simp] theorem setDriveTime_steps (s : State) (ms : Nat) : (s.setDriveTime ms).steps = { s.steps with driveTime := ms } := rfl
@[simp] theorem setDriveTime_chans (s : State) (ms : Nat) : (s.setDriveTime ms).chans = s.chans := rfl
@[simp] theorem setDriveTime_pump (s : State) (ms : Nat) : (s.setDriveTime ms).pump = s.pump := rfl
@[simp] theorem setDriveTime_beacon (s : State) (ms : Nat) : (s.setDriveTime ms).beacon = s.beacon := rfl
@[simp] theorem setDriveTime_cab (s : State) (ms : Nat) : (s.setDriveTime ms).cab = s.cab := rfl
@[simp] theorem setDriveTime_nodeOk (s : State) (ms : Nat) : (s.setDriveTime ms).nodeOk = s.nodeOk := rfl
@[simp] theorem setDriveTime_log (s : State) (ms : Nat) : (s.setDriveTime ms).log = s.log := rfl
@[simp] theorem setDriveTime_port (s : State) (ms : Nat) : (s.setDriveTime ms).port = s.port := rfl
@[simp] theorem setDriveTime_pending (s : State) (ms : Nat) : (s.setDriveTime ms).pending = s.pending := rfl

end Sys2Proof.Laws
end

