-- ==== Sys2Proof/Laws/Outer.lean ====
section
/-! SUPPORT. What the moves of the engines and the passes leave: everything of the node but the transmit list, posture
marks, runs, steps, channels, pump, beacons, flashes and the records of the log. `finish_outer` is cited instead of
unfolding `finish`. -/

namespace Sys2Proof.Laws

open Sys2Proof.Machine

/-- The fields that no move and no pass changes. -/
def outer (s : State) :=
  (s.straps, s.serial, s.member, s.table, s.lines, s.port, s.pending, s.log.tag, s.link.rx, s.link.line, s.link.vetoRun,
    s.link.driverCut, s.link.footing)

/-! ## Updates -/

@[simp] theorem setRun_outer (s : State) (r : Run) : outer (s.setRun r) = outer s := rfl
@[simp] theorem setSteps_outer (s : State) (u : StepUnit) : outer (s.setSteps u) = outer s := rfl
@[simp] theorem command_outer (s : State) (c : Chan) (x : ChanCmd) : outer (s.command c x) = outer s := rfl
@[simp] theorem relieveAll_outer (s : State) : outer s.relieveAll = outer s := rfl
@[simp] theorem holdDriving_outer (s : State) : outer s.holdDriving = outer s := rfl
@[simp] theorem writeRec_outer (s : State) (r : LogRec) : outer (s.writeRec r) = outer s := rfl
@[simp] theorem changeOpen_outer (s : State) (f : LogRec → LogRec) : outer (s.changeOpen f) = outer s := rfl
@[simp] theorem withdraw_outer (s : State) (k : Kind) (x : Option Node) : outer (s.withdraw k x) = outer s := rfl
@[simp] theorem emptyStack_outer (s : State) : outer s.emptyStack = outer s := rfl
@[simp] theorem closeRec_outer (s : State) (o : RunOutcome) (c : Option Cause) : outer (s.closeRec o c) = outer s := rfl
@[simp] theorem writeRequest_outer (s : State) (m : Option Manoeuvre) (o : RunOutcome) (c : Cause) :
    outer (s.writeRequest m o c) = outer s := rfl
@[simp] theorem writePhaseEnd_outer (s : State) (r : Run) (o : RunOutcome) (c : Option Cause) :
    outer (s.writePhaseEnd r o c) = outer s := rfl

@[simp] theorem queue_outer (s : State) (f : TxFrame) : outer (s.queue f) = outer s := by
  unfold State.queue; split <;> rfl

@[simp] theorem markChange_outer (s : State) : outer s.markChange = outer s := rfl

@[simp] theorem queueYield_outer (s : State) : outer s.queueYield = outer s := by simp [State.queueYield]

@[simp] theorem queueClaim_outer (s : State) (m : Manoeuvre) : outer (s.queueClaim m) = outer s := by
  unfold State.queueClaim; split <;> simp

@[simp] theorem openRec_outer (s : State) (n : Nat) : outer (s.openRec n) = outer s := by
  unfold State.openRec; split <;> simp

@[simp] theorem arm_outer (s : State) (n : Nat) (a b : Bool) : outer (s.arm n a b) = outer s := by
  unfold State.arm; dsimp only; split <;> simp

@[simp] theorem stepTo_outer (s : State) (c : CurStep) (x : StepState) : outer (s.stepTo c x) = outer s := rfl

@[simp] theorem stepEnds_outer (s : State) (c : CurStep) (o : RunOutcome) (x : Option Cause) :
    outer (s.stepEnds c o x) = outer s := rfl

/-! ## Runs and steps -/

@[simp] theorem enterEnding_outer (s : State) (o : RunOutcome) (c : Option Cause) :
    outer (s.enterEnding o c) = outer s := by
  unfold State.enterEnding; split <;> rfl

@[simp] theorem leaveEnding_outer (s : State) (r : Run) : outer (s.leaveEnding r) = outer s := by
  unfold State.leaveEnding; dsimp only; split <;> simp

@[simp] theorem endStack_outer (s : State) (o : RunOutcome) : outer (s.endStack o) = outer s := by
  unfold State.endStack; dsimp only; split <;> simp

@[simp] theorem startRun_outer (s : State) (m : Manoeuvre) (f : Option LiftFn) : outer (s.startRun m f) = outer s := by
  unfold State.startRun; dsimp only; split
  · rfl
  · rw [queueClaim_outer]; rfl

@[simp] theorem foldl_command_outer (l : List Chan) (p : State → Chan → Bool) (s : State) :
    outer (l.foldl (fun t c => if p t c then t else t.command c .relieve) s) = outer s := by
  induction l generalizing s with
  | nil => rfl
  | cons c l ih =>
    rw [List.foldl_cons, ih]
    split <;> simp

@[simp] theorem relieveUnnamed_outer (s : State) (m : Manoeuvre) : outer (s.relieveUnnamed m) = outer s :=
  foldl_command_outer _ (fun _ c => ((m.steps s.straps.side).map StepDef.chan).contains c) s

@[simp] theorem switchTo_outer (s : State) (m : Manoeuvre) (f : Option LiftFn) : outer (s.switchTo m f) = outer s := by
  unfold State.switchTo
  cases s.runs.run with
  | none => rfl
  | some r =>
    dsimp only
    split
    · split
      · rw [arm_outer, relieveUnnamed_outer]; rfl
      · rfl
    · rfl

@[simp] theorem requestIdle_outer (s : State) (m : Manoeuvre) (f : Option LiftFn) :
    outer (s.requestIdle m f) = outer s := by
  unfold State.requestIdle; split
  · simp
  · split <;> simp

@[simp] theorem touchRequest_outer (s : State) (m : Manoeuvre) : outer (s.touchRequest m) = outer s := by
  unfold State.touchRequest; split
  · simp
  · split
    · simp
    · split <;> simp
    · split <;> simp
    · rfl

@[simp] theorem resumeRun_outer (s : State) (r : Run) : outer (s.resumeRun r) = outer s := by
  unfold State.resumeRun; split <;> simp

@[simp] theorem heldBegin_outer (s : State) (f : LiftFn) : outer (s.heldBegin f) = outer s := by
  unfold State.heldBegin; split
  · simp
  · split
    · simp
    · split <;> simp
    · rfl
    · rfl

@[simp] theorem pauseRun_outer (s : State) (r : Run) : outer (s.pauseRun r) = outer s := by
  unfold State.pauseRun; split <;> simp

@[simp] theorem heldEnd_outer (s : State) (f : LiftFn) : outer (s.heldEnd f) = outer s := by
  unfold State.heldEnd; split
  · rfl
  · split
    · split <;> simp
    · rfl

@[simp] theorem grantRun_outer (s : State) (r : Run) : outer (s.grantRun r) = outer s := by
  unfold State.grantRun; dsimp only; rw [arm_outer]; rfl

@[simp] theorem yieldStray_outer (s : State) : outer s.yieldStray = outer s := by
  unfold State.yieldStray; split <;> simp

@[simp] theorem takeVerdict_outer (s : State) (v : Verdict) : outer (s.takeVerdict v) = outer s := by
  unfold State.takeVerdict
  split
  · split <;> simp
  · split <;> (try split) <;> simp

@[simp] theorem failStep_outer (s : State) (c : CurStep) (d : StepDef) (x : Cause) (b : Bool) :
    outer (s.failStep c d x b) = outer s := by
  unfold State.failStep; dsimp only; split
  · simp
  · split <;> simp

@[simp] theorem stepDone_outer (s : State) (c : CurStep) (d : StepDef) : outer (s.stepDone c d) = outer s := by
  simp [State.stepDone]

@[simp] theorem stepSkipped_outer (s : State) (c : CurStep) : outer (s.stepSkipped c) = outer s := by
  simp [State.stepSkipped]

@[simp] theorem enterOpening_outer (s : State) (c : CurStep) (d : StepDef) : outer (s.enterOpening c d) = outer s := by
  unfold State.enterOpening; dsimp only; split <;> simp

@[simp] theorem leaveArming_outer (s : State) (r : Run) (c : CurStep) (d : StepDef) :
    outer (s.leaveArming r c d) = outer s := by
  unfold State.leaveArming; split <;> simp

@[simp] theorem makeNest_outer (s : State) (r : Run) (d : StepDef) (m : Manoeuvre) :
    outer (s.makeNest r d m) = outer s := by
  unfold State.makeNest; dsimp only; rw [arm_outer]; rfl

@[simp] theorem nestTrigger_outer (s : State) (r : Run) (c : CurStep) (d : StepDef) (m : Manoeuvre) :
    outer (s.nestTrigger r c d m) = outer s := by
  unfold State.nestTrigger; split
  · simp
  · split
    · simp
    · split <;> simp

@[simp] theorem driveStep_outer (s : State) (c : CurStep) (d : StepDef) : outer (s.driveStep c d) = outer s := rfl

@[simp] theorem stallStep_outer (s : State) (c : CurStep) (d : StepDef) : outer (s.stallStep c d) = outer s := rfl

@[simp] theorem completeTop_outer (s : State) (r : Run) : outer (s.completeTop r) = outer s := by
  unfold State.completeTop; split <;> simp

@[simp] theorem failTop_outer (s : State) (r : Run) (c : Option Cause) : outer (s.failTop r c) = outer s := by
  unfold State.failTop; split
  · simp
  · dsimp only; split <;> simp

@[simp] theorem takeOutcome_outer (s : State) (r : Run) (o : RunOutcome) (c : Option Cause) :
    outer (s.takeOutcome r o c) = outer s := by
  unfold State.takeOutcome; split
  · simp
  · dsimp only; split <;> simp

/-! ## Moves -/

theorem relieveOthers_outer (s : State) (c : Chan) : outer (s.relieveOthers c) = outer s := by
  unfold State.relieveOthers
  generalize allChans = l
  induction l generalizing s with
  | nil => rfl
  | cons x l ih =>
    rw [List.foldl_cons, ih]
    split <;> simp

@[simp] theorem toGate_outer (s : State) (c : CurStep) (g : Gate) : outer (s.toGate c g) = outer s := rfl

theorem startRecovery_outer {s t : State} (h : s.startRecovery = some t) : outer t = outer s := by
  unfold State.startRecovery at h
  split at h <;> cases h
  rfl

theorem armingMove_outer {s t : State} {r : Run} {c : CurStep} {d : StepDef} (h : s.armingMove r c d = some t) :
    outer t = outer s := by
  unfold State.armingMove at h
  split at h
  · split at h <;> cases h <;> simp [relieveOthers_outer]
  · split at h
    · cases h; simp
    · exact startRecovery_outer h
  · split at h
    · split at h <;> cases h <;> simp
    · cases h; simp
  · split at h
    · cases h; simp
    · exact startRecovery_outer h

theorem drivingMove_outer {s t : State} {r : Run} {c : CurStep} {d : StepDef} (h : s.drivingMove r c d = some t) :
    outer t = outer s := by
  unfold State.drivingMove at h
  split at h
  · cases h; simp
  · split at h
    · cases h; simp
    · split at h
      · cases h; simp
      · split at h <;> (try split at h) <;> cases h <;> simp

@[simp] theorem returnToArming_outer (s : State) : outer s.returnToArming = outer s := by
  simp [State.returnToArming]

theorem plainMove_outer {s t : State} {r : Run} {c : CurStep} {d : StepDef} (h : s.plainMove r c d = some t) :
    outer t = outer s := by
  unfold State.plainMove at h
  cases hc : c.state <;> simp only [hc] at h
  case arming => exact armingMove_outer h
  case driving => exact drivingMove_outer h
  all_goals
    repeat' split at h
  all_goals (cases h <;> simp)

theorem stepMove_outer {s t : State} (h : stepMove s = some t) : outer t = outer s := by
  unfold stepMove at h
  split at h
  · split at h
    · split at h
      · cases h; simp
      · split at h
        · exact absurd h (by simp)
        · split at h
          · cases h; simp
          · split at h
            · cases h; simp
            · exact plainMove_outer h
    · exact absurd h (by simp)
  · exact absurd h (by simp)

theorem runMove_outer {s t : State} (h : runMove s = some t) : outer t = outer s := by
  unfold runMove at h
  repeat' split at h
  all_goals (cases h <;> simp)

theorem engineMove_outer {s t : State} (h : engineMove s = some t) : outer t = outer s := by
  unfold engineMove at h
  split at h
  · cases h; exact stepMove_outer (by assumption)
  · exact runMove_outer h

@[simp] theorem noteChange_outer (old s : State) : outer (State.noteChange old s) = outer s := by
  unfold State.noteChange; split
  · split
    · rfl
    · split <;> simp
  · rfl

theorem settle_outer (n : Nat) (s : State) : outer (settle n s) = outer s := by
  induction n generalizing s with
  | zero => rfl
  | succ n ih =>
    unfold settle
    split
    · rw [ih, noteChange_outer]; exact engineMove_outer (by assumption)
    · rfl

theorem passes_outer (f : State → State) (h : f ∈ passes) (s : State) : outer (f s) = outer s := by
  simp only [passes, List.mem_cons, List.not_mem_nil, or_false] at h
  rcases h with rfl | rfl | rfl | rfl | rfl | rfl | rfl | rfl | rfl | rfl | rfl | rfl
  · unfold snapshotPass; split
    · rfl
    · split <;> simp
  · rfl
  iterate 5 (first | (unfold demandPass; split <;> rfl) | (unfold lampTestPass; split <;> rfl))
  · unfold cabPass; split <;> rfl
  · unfold nodeOkPass; split <;> rfl
  · unfold believePass; split <;> rfl
  · rfl
  · unfold plausPass; split <;> rfl

theorem foldl_passes_outer (l : List (State → State)) (h : ∀ f ∈ l, ∀ s, outer (f s) = outer s) (s : State) :
    outer (l.foldl (fun t f => State.noteChange t (f t)) s) = outer s := by
  induction l generalizing s with
  | nil => rfl
  | cons f l ih =>
    rw [List.foldl_cons, ih fun g hg => h g (List.mem_cons_of_mem f hg), noteChange_outer]
    exact h f List.mem_cons_self s

theorem follow_outer (s : State) : outer (follow s) = outer s := foldl_passes_outer passes passes_outer s

/-- What finishing an event leaves. -/
theorem finish_outer (old s : State) : outer (finish old s) = outer s := by
  unfold finish; rw [follow_outer, settle_outer, noteChange_outer]

/-- States that agree on `outer` agree on each of its fields. -/
theorem outer_fields {s t : State} (h : outer t = outer s) :
    t.straps = s.straps ∧ t.serial = s.serial ∧ t.member = s.member ∧ t.table = s.table ∧ t.lines = s.lines ∧
      t.port = s.port ∧ t.pending = s.pending ∧ t.log.tag = s.log.tag ∧ t.link.rx = s.link.rx ∧
      t.link.line = s.link.line ∧ t.link.vetoRun = s.link.vetoRun ∧ t.link.driverCut = s.link.driverCut ∧
      t.link.footing = s.link.footing := by
  simpa only [outer, Prod.mk.injEq] using h

@[simp] theorem finish_straps (old s : State) : (finish old s).straps = s.straps :=
  (outer_fields (finish_outer old s)).1
@[simp] theorem finish_serial (old s : State) : (finish old s).serial = s.serial :=
  (outer_fields (finish_outer old s)).2.1
@[simp] theorem finish_member (old s : State) : (finish old s).member = s.member :=
  (outer_fields (finish_outer old s)).2.2.1
@[simp] theorem finish_table (old s : State) : (finish old s).table = s.table :=
  (outer_fields (finish_outer old s)).2.2.2.1
@[simp] theorem finish_lines (old s : State) : (finish old s).lines = s.lines :=
  (outer_fields (finish_outer old s)).2.2.2.2.1
@[simp] theorem finish_port (old s : State) : (finish old s).port = s.port :=
  (outer_fields (finish_outer old s)).2.2.2.2.2.1
@[simp] theorem finish_pending (old s : State) : (finish old s).pending = s.pending :=
  (outer_fields (finish_outer old s)).2.2.2.2.2.2.1
@[simp] theorem finish_tag (old s : State) : (finish old s).log.tag = s.log.tag :=
  (outer_fields (finish_outer old s)).2.2.2.2.2.2.2.1
@[simp] theorem finish_rx (old s : State) : (finish old s).link.rx = s.link.rx :=
  (outer_fields (finish_outer old s)).2.2.2.2.2.2.2.2.1
@[simp] theorem finish_line (old s : State) : (finish old s).link.line = s.link.line :=
  (outer_fields (finish_outer old s)).2.2.2.2.2.2.2.2.2.1
@[simp] theorem finish_vetoRun (old s : State) : (finish old s).link.vetoRun = s.link.vetoRun :=
  (outer_fields (finish_outer old s)).2.2.2.2.2.2.2.2.2.2.1
@[simp] theorem finish_driverCut (old s : State) : (finish old s).link.driverCut = s.link.driverCut :=
  (outer_fields (finish_outer old s)).2.2.2.2.2.2.2.2.2.2.2.1
@[simp] theorem finish_footing (old s : State) : (finish old s).link.footing = s.link.footing :=
  (outer_fields (finish_outer old s)).2.2.2.2.2.2.2.2.2.2.2.2

end Sys2Proof.Laws
end

