-- ==== Sys2Proof/Laws/Finish.lean ====
section
/-! SUPPORT. What follows an event: how a property is carried through `finish`, what `finish` does where no run is held,
what it leaves of the transmit list, and the laws of pump and beacons that hold after it. -/

namespace Sys2Proof.Laws

open Sys2Proof.Machine

/-! ## Carrying a property through -/

theorem settle_keeps {P : State → Prop} (hmove : ∀ s t, engineMove s = some t → P s → P t)
    (hnote : ∀ old s, P s → P (State.noteChange old s)) (n : Nat) (s : State) (h : P s) : P (settle n s) := by
  induction n generalizing s with
  | zero => exact h
  | succ n ih =>
    unfold settle
    split
    · exact ih _ (hnote _ _ (hmove _ _ (by assumption) h))
    · exact h

theorem foldl_keeps {P : State → Prop} (hnote : ∀ old s, P s → P (State.noteChange old s)) (l : List (State → State))
    (hpass : ∀ f ∈ l, ∀ s, P s → P (f s)) (s : State) (h : P s) :
    P (l.foldl (fun t f => State.noteChange t (f t)) s) := by
  induction l generalizing s with
  | nil => exact h
  | cons f l ih =>
    exact ih (fun g hg => hpass g (List.mem_cons_of_mem f hg)) _ (hnote _ _ (hpass f List.mem_cons_self s h))

/-- A property that every engine move, every note and every pass keeps is kept by `finish`. -/
theorem finish_keeps {P : State → Prop} (hmove : ∀ s t, engineMove s = some t → P s → P t)
    (hnote : ∀ old s, P s → P (State.noteChange old s)) (hpass : ∀ f ∈ passes, ∀ s, P s → P (f s)) (old s : State)
    (h : P s) : P (finish old s) := by
  unfold finish follow
  apply foldl_keeps hnote passes hpass
  apply settle_keeps hmove hnote
  exact hnote _ _ h

/-- The twelve passes, one by one. -/
theorem passes_cases {P : (State → State) → Prop} (h1 : P snapshotPass) (h2 : P hazardPass)
    (h3 : ∀ g, P (demandPass g)) (h4 : P lampTestPass) (h5 : P cabPass) (h6 : P nodeOkPass) (h7 : P believePass)
    (h8 : P pumpPass) (h9 : P plausPass) : ∀ f ∈ passes, P f := by
  intro f hf
  simp only [passes, List.mem_cons, List.not_mem_nil, or_false] at hf
  rcases hf with rfl | rfl | rfl | rfl | rfl | rfl | rfl | rfl | rfl | rfl | rfl | rfl
  exacts [h1, h2, h3 _, h3 _, h3 _, h3 _, h4, h5, h6, h7, h8, h9]

/-! ## What a note changes -/

/-- A note changes nothing, or in a MEMBER queues a POSTURE, sets the change mark, or does both. -/
theorem noteChange_cases (old s : State) :
    State.noteChange old s = s ∨
      s.member.mstate = .member ∧ (State.noteChange old s = s.queue .posture ∨ State.noteChange old s = s.markChange ∨
        State.noteChange old s = (s.queue .posture).markChange) := by
  unfold State.noteChange
  split
  · rename_i h
    refine .inr ⟨h.1, ?_⟩
    split
    · exact .inr (.inl rfl)
    · split
      · exact .inr (.inr rfl)
      · exact .inl rfl
  · exact .inl rfl

/-- The fields that neither a note nor a pass changes. -/
def inner (s : State) := (s.runs, s.steps, s.chans, s.log)

theorem queue_inner (s : State) (f : TxFrame) : inner (s.queue f) = inner s := by unfold State.queue; split <;> rfl

theorem noteChange_inner (old s : State) : inner (State.noteChange old s) = inner s := by
  rcases noteChange_cases old s with h | ⟨_, h | h | h⟩ <;> rw [h]
  · exact queue_inner s _
  · rfl
  · exact queue_inner s _

theorem inner_fields {s t : State} (h : inner t = inner s) :
    t.runs = s.runs ∧ t.steps = s.steps ∧ t.chans = s.chans ∧ t.log = s.log := by
  simpa only [inner, Prod.mk.injEq] using h

@[simp] theorem noteChange_runs (old s : State) : (State.noteChange old s).runs = s.runs :=
  (inner_fields (noteChange_inner old s)).1
@[simp] theorem noteChange_steps (old s : State) : (State.noteChange old s).steps = s.steps :=
  (inner_fields (noteChange_inner old s)).2.1
@[simp] theorem noteChange_chans (old s : State) : (State.noteChange old s).chans = s.chans :=
  (inner_fields (noteChange_inner old s)).2.2.1
@[simp] theorem noteChange_log (old s : State) : (State.noteChange old s).log = s.log :=
  (inner_fields (noteChange_inner old s)).2.2.2

/-- The blocks that a note leaves: pump, beacons and flashes. -/
theorem noteChange_blocks (old s : State) :
    (State.noteChange old s).pump = s.pump ∧ (State.noteChange old s).beacon = s.beacon ∧
      (State.noteChange old s).cab = s.cab ∧ (State.noteChange old s).nodeOk = s.nodeOk := by
  rcases noteChange_cases old s with h | ⟨_, h | h | h⟩ <;> rw [h]
  · exact ⟨rfl, rfl, rfl, rfl⟩
  · unfold State.queue; split <;> exact ⟨rfl, rfl, rfl, rfl⟩
  · exact ⟨rfl, rfl, rfl, rfl⟩
  · unfold State.queue; split <;> exact ⟨rfl, rfl, rfl, rfl⟩

/-- With no move enabled nothing settles. -/
theorem settle_of_none {s : State} (h : engineMove s = none) (n : Nat) : settle n s = s := by
  cases n <;> simp [settle, h]

/-- An enabled move is taken, noted, and followed by the next ones. -/
theorem settle_of_move {s t : State} (h : engineMove s = some t) (n : Nat) :
    settle (n + 1) s = settle n (State.noteChange s t) := by
  simp [settle, h]

/-- Where no engine has a move, an event is finished by the passes alone. -/
theorem finish_of_none {old s : State} (h : engineMove (State.noteChange old s) = none) :
    finish old s = follow (State.noteChange old s) := by
  rw [finish, settle_of_none h]

/-- An engine's move is taken in the event that enables it (assumption 23). -/
theorem finish_of_move {old s t : State} (h : engineMove (State.noteChange old s) = some t) :
    finish old s = follow (settle 255 (State.noteChange (State.noteChange old s) t)) := by
  rw [finish, settleFuel, settle_of_move h]

/-- A node that is not MEMBER notes nothing. -/
theorem noteChange_of_not_member {old s : State} (h : s.member.mstate ≠ .member) : State.noteChange old s = s := by
  rcases noteChange_cases old s with h1 | ⟨h1, _⟩
  · exact h1
  · exact absurd h1 h

/-! ## What the passes change -/

theorem passes_inner : ∀ f ∈ passes, ∀ s, inner (f s) = inner s := by
  refine passes_cases ?_ ?_ ?_ ?_ ?_ ?_ ?_ ?_ ?_
  · intro s; unfold snapshotPass; split
    · rfl
    · split
      · exact queue_inner s _
      · rfl
  · intro s; rfl
  · intro g s; unfold demandPass; split <;> rfl
  · intro s; unfold lampTestPass; split <;> rfl
  · intro s; unfold cabPass; split <;> rfl
  · intro s; unfold nodeOkPass; split <;> rfl
  · intro s; unfold believePass; split <;> rfl
  · intro s; rfl
  · intro s; unfold plausPass; split <;> rfl

theorem follow_inner (s : State) : inner (follow s) = inner s := by
  unfold follow
  apply foldl_keeps (P := fun t => inner t = inner s)
  · exact fun _ _ h => (noteChange_inner _ _).trans h
  · exact fun f hf t h => (passes_inner f hf t).trans h
  · rfl

/-! ## With no run held -/

theorem engineMove_of_no_run {s : State} (h : s.runs.run = none) : engineMove s = none := by
  simp [engineMove, stepMove, runMove, h]

theorem settle_of_no_run {s : State} (h : s.runs.run = none) (n : Nat) : settle n s = s :=
  settle_of_none (engineMove_of_no_run h) n

/-- With no run held, runs, steps, channels and log are as the event left them. -/
theorem finish_inner_of_no_run {old s : State} (h : s.runs.run = none) : inner (finish old s) = inner s := by
  unfold finish
  rw [follow_inner, settle_of_no_run (by simpa using h), noteChange_inner]

/-! ## With no attempt to queue: a node outside the body -/

theorem passes_link_of_not_member : ∀ f ∈ passes, ∀ s : State, s.member.mstate ≠ .member → s.link.tx = [] →
    (f s).link = s.link ∧ (f s).post = s.post := by
  refine passes_cases ?_ ?_ ?_ ?_ ?_ ?_ ?_ ?_ ?_
  · intro s hm ht; unfold snapshotPass; split
    · exact ⟨rfl, rfl⟩
    · split
      · simp_all [State.snapshotDuty]
      · have : s.link = { s.link with tx := [] } := by rw [← ht]
        refine ⟨?_, rfl⟩
        rw [this]; simp [State.withdraw, withdrawIn, ht]
  · intros; exact ⟨rfl, rfl⟩
  · intro g s _ _; unfold demandPass; split <;> exact ⟨rfl, rfl⟩
  · intro s _ _; unfold lampTestPass; split <;> exact ⟨rfl, rfl⟩
  · intro s _ _; unfold cabPass; split <;> exact ⟨rfl, rfl⟩
  · intro s _ _; unfold nodeOkPass; split <;> exact ⟨rfl, rfl⟩
  · intro s _ _; unfold believePass; split <;> exact ⟨rfl, rfl⟩
  · intros; exact ⟨rfl, rfl⟩
  · intro s _ _; unfold plausPass; split <;> exact ⟨rfl, rfl⟩

theorem passes_member : ∀ f ∈ passes, ∀ s, (f s).member = s.member :=
  fun f hf s => (outer_fields (passes_outer f hf s)).2.2.1

/-- A node outside the body with nothing pending and no run keeps its link and its posture marks. -/
theorem finish_link_of_not_member {old s : State} (hr : s.runs.run = none) (hm : s.member.mstate ≠ .member)
    (ht : s.link.tx = []) : (finish old s).link = s.link ∧ (finish old s).post = s.post := by
  unfold finish
  rw [noteChange_of_not_member hm, settle_of_no_run hr]
  have key : ∀ l : List (State → State), (∀ f ∈ l, f ∈ passes) → ∀ s : State, s.member.mstate ≠ .member →
      s.link.tx = [] → (l.foldl (fun t f => State.noteChange t (f t)) s).link = s.link ∧
        (l.foldl (fun t f => State.noteChange t (f t)) s).post = s.post := by
    intro l
    induction l with
    | nil => intros; exact ⟨rfl, rfl⟩
    | cons f l ih =>
      intro hl s hm ht
      have h1 := passes_link_of_not_member f (hl f List.mem_cons_self) s hm ht
      have h2 := passes_member f (hl f List.mem_cons_self) s
      rw [List.foldl_cons, noteChange_of_not_member (by rwa [h2])]
      obtain ⟨h3, h4⟩ := ih (fun g hg => hl g (List.mem_cons_of_mem f hg)) (f s) (by rwa [h2]) (by rwa [h1.1])
      exact ⟨h3.trans h1.1, h4.trans h1.2⟩
  exact key passes (fun _ h => h) s hm ht

/-! ## The transmit list -/

/-- Queueing leaves the pending frames of every other kind, and takes in only its own frame. -/
theorem mem_queue_tx {s : State} {f : TxFrame} {e : TxEntry} (h : e ∈ (s.queue f).link.tx) (hk : e.frame.kind ≠ f.kind) :
    e ∈ s.link.tx := by
  unfold State.queue at h
  split at h
  · simp only [queueIn] at h
    split at h
    · simp only [List.mem_map] at h
      obtain ⟨x, hx, rfl⟩ := h
      split at hk
      · exact absurd rfl hk
      · rename_i h2; rw [if_neg h2]; exact hx
    · simp only [List.mem_append, List.mem_singleton] at h
      rcases h with h | rfl
      · exact h
      · exact absurd rfl hk
  · exact h

/-- A pending frame of another kind and subject stays pending. -/
theorem pends_queue {s : State} {f g : TxFrame} (h : s.pends f) (hk : f = g ∨ f.kind ≠ g.kind) :
    (s.queue g).pends f := by
  obtain ⟨e, he, hf, hw⟩ := h
  unfold State.queue
  split
  · by_cases hm : e.isFor g.kind g.subject = true
    · rcases hk with rfl | hk
      · refine ⟨{ e with frame := f, withdrawn := false }, ?_, rfl, rfl⟩
        have ha : (s.link.tx.any fun e => e.isFor f.kind f.subject) = true := List.any_eq_true.mpr ⟨e, he, hm⟩
        simp only [queueIn, ha, if_true, List.mem_map]
        exact ⟨e, he, by simp [hm]⟩
      · simp [TxEntry.isFor, hf] at hm; exact absurd hm.1 hk
    · refine ⟨e, ?_, hf, hw⟩
      simp only [queueIn]
      split
      · simp only [List.mem_map]; exact ⟨e, he, by simp [hm]⟩
      · exact List.mem_append_left _ he
  · exact ⟨e, he, hf, hw⟩

/-- A queued frame is pending, in the states in which frames are queued. -/
theorem pends_queue_self {s : State} (f : TxFrame) (h : s.mayQueue = true) : (s.queue f).pends f := by
  unfold State.queue
  rw [if_pos h]
  simp only [State.pends, queueIn]
  split
  · rename_i ha
    obtain ⟨e, he, hm⟩ := List.any_eq_true.mp ha
    exact ⟨{ e with frame := f, withdrawn := false }, List.mem_map.mpr ⟨e, he, by simp [hm]⟩, rfl, rfl⟩
  · exact ⟨{ frame := f, attempts := 0, withdrawn := false }, by simp, rfl, rfl⟩

/-- Withdrawing a frame leaves every pending frame of another kind. -/
theorem pends_withdraw {s : State} {f : TxFrame} {k : Kind} {x : Option Node} (h : s.pends f) (hk : f.kind ≠ k) :
    (s.withdraw k x).pends f := by
  obtain ⟨e, he, hf, hw⟩ := h
  have hn : e.isFor k x = false := by simp [TxEntry.isFor, hf, hk]
  refine ⟨e, ?_, hf, hw⟩
  simp only [State.withdraw, withdrawIn]
  split
  · exact List.mem_map.mpr ⟨e, he, by simp [hn]⟩
  · exact List.mem_filter.mpr ⟨he, by simp [hn]⟩

/-- Withdrawing takes nothing in: a frame of another kind that is pending was pending. -/
theorem mem_withdraw_tx {s : State} {k : Kind} {x : Option Node} {e : TxEntry} (h : e ∈ (s.withdraw k x).link.tx)
    (hk : e.frame.kind ≠ k) : e ∈ s.link.tx := by
  simp only [State.withdraw, withdrawIn] at h
  split at h
  · obtain ⟨y, hy, rfl⟩ := List.mem_map.mp h
    split at hk
    · rename_i h2; simp [TxEntry.isFor] at h2; exact absurd h2.1 hk
    · rename_i h2; rw [if_neg h2]; exact hy
  · exact (List.mem_filter.mp h).1

/-! ## Pump and beacons after an event -/

theorem turn_on (p : PumpUnit) (b : Bool) : (p.turn b).on = b := by
  unfold PumpUnit.turn
  split
  · rename_i h; exact h.symm
  · split
    · rename_i h; exact h.symm
    · rename_i h; simp at h; exact h.symm

end Sys2Proof.Laws
end

