-- ==== Sys2Proof/Laws/Follows.lean ====
section
/-! SUPPORT. What the engines' moves, notes and passes can do at all: each is a chain of the few updates of `Follows`. A
property kept by each of these updates is carried through `finish` by one induction. -/

namespace Sys2Proof.Laws

open Sys2Proof.Machine

/-- The frames that the engines, the posture unit and the snapshot duty queue. -/
def ownTraffic (k : Kind) : Bool := k == .claim || k == .yield || k == .snapshot || k == .posture

/-- `t` is reached from `s` by updates that follow an event. -/
inductive Follows : State → State → Prop
  | refl (s : State) : Follows s s
  | engines {s t : State} (u : RunUnit) (v : StepUnit) : Follows s t → Follows s { t with runs := u, steps := v }
  | chan {s t : State} (c : Chan) (x : ChanCmd) : Follows s t → Follows s (t.command c x)
  | relieve {s t : State} : Follows s t → Follows s t.relieveAll
  | hold {s t : State} : Follows s t → Follows s t.holdDriving
  | write {s t : State} (r : LogRec) : Follows s t → Follows s (t.writeRec r)
  | change {s t : State} (f : LogRec → LogRec) : Follows s t → Follows s (t.changeOpen f)
  | queue {s t : State} (f : TxFrame) (h : ownTraffic f.kind = true) : Follows s t → Follows s (t.queue f)
  | withdraw {s t : State} (k : Kind) (x : Option Node) (h : k = .claim ∨ k = .snapshot) :
      Follows s t → Follows s (t.withdraw k x)
  | post {s t : State} (b : Bool) : Follows s t → Follows s { t with post := { t.post with changed := b } }
  | blocks {s t : State} (p : PumpUnit) (b : BeaconUnit) (c n : Flash) :
      Follows s t → Follows s { t with pump := p, beacon := b, cab := c, nodeOk := n }

namespace Follows

theorem trans {s t u : State} (h1 : Follows s t) (h2 : Follows t u) : Follows s u := by
  induction h2 with
  | refl => exact h1
  | engines u v _ ih => exact ih.engines u v
  | chan c x _ ih => exact ih.chan c x
  | relieve _ ih => exact ih.relieve
  | hold _ ih => exact ih.hold
  | write r _ ih => exact ih.write r
  | change f _ ih => exact ih.change f
  | queue f h _ ih => exact ih.queue f h
  | withdraw k x h _ ih => exact ih.withdraw k x h
  | post b _ ih => exact ih.post b
  | blocks p b c n _ ih => exact ih.blocks p b c n

/-- A property that each of the updates keeps is kept along the chain. -/
theorem keeps {P : State → Prop} {s t : State} (h : Follows s t) (hs : P s)
    (engines : ∀ t u v, P t → P { t with runs := u, steps := v })
    (chan : ∀ t c x, P t → P (State.command t c x)) (relieve : ∀ t, P t → P t.relieveAll)
    (hold : ∀ t, P t → P t.holdDriving) (write : ∀ t r, P t → P (State.writeRec t r))
    (change : ∀ t f, P t → P (State.changeOpen t f))
    (queue : ∀ t f, ownTraffic f.kind = true → P t → P (State.queue t f))
    (withdraw : ∀ t k x, k = .claim ∨ k = .snapshot → P t → P (State.withdraw t k x))
    (post : ∀ (t : State) b, P t → P { t with post := { t.post with changed := b } })
    (blocks : ∀ t p b c n, P t → P { t with pump := p, beacon := b, cab := c, nodeOk := n }) : P t := by
  induction h with
  | refl => exact hs
  | engines u v _ ih => exact engines _ u v ih
  | chan c x _ ih => exact chan _ c x ih
  | relieve _ ih => exact relieve _ ih
  | hold _ ih => exact hold _ ih
  | write r _ ih => exact write _ r ih
  | change f _ ih => exact change _ f ih
  | queue f h _ ih => exact queue _ f h ih
  | withdraw k x h _ ih => exact withdraw _ k x h ih
  | post b _ ih => exact post _ b ih
  | blocks p b c n _ ih => exact blocks _ p b c n ih

end Follows

/-! ## The operations of the engines -/

variable {s t : State}

theorem Follows.setRun (r : Run) (h : Follows s t) : Follows s (t.setRun r) := h.engines _ _
theorem Follows.setSteps (u : StepUnit) (h : Follows s t) : Follows s (t.setSteps u) := h.engines _ u
theorem Follows.closeRec (o : RunOutcome) (c : Option Cause) (h : Follows s t) : Follows s (t.closeRec o c) := h.change _
theorem Follows.writePhaseEnd (r : Run) (o : RunOutcome) (c : Option Cause) (h : Follows s t) :
    Follows s (t.writePhaseEnd r o c) := h.write _
theorem Follows.writeRequest (m : Option Manoeuvre) (o : RunOutcome) (c : Cause) (h : Follows s t) :
    Follows s (t.writeRequest m o c) := h.write _
theorem Follows.emptyStack (h : Follows s t) : Follows s t.emptyStack := h.engines _ _

theorem Follows.openRec (n : Nat) (h : Follows s t) : Follows s (t.openRec n) := by
  unfold State.openRec; split
  · exact h
  · exact h.write _

theorem Follows.arm (n : Nat) (a b : Bool) (h : Follows s t) : Follows s (t.arm n a b) := by
  unfold State.arm; dsimp only; split
  · exact (h.setSteps _).openRec _
  · exact h.setSteps _

theorem Follows.queueYield (h : Follows s t) : Follows s t.queueYield :=
  (h.withdraw .claim none (.inl rfl)).queue .yield rfl

theorem Follows.queueClaim (m : Manoeuvre) (h : Follows s t) : Follows s (t.queueClaim m) := by
  unfold State.queueClaim; split
  · exact h.queue _ rfl
  · exact h

theorem Follows.enterEnding (o : RunOutcome) (c : Option Cause) (h : Follows s t) : Follows s (t.enterEnding o c) := by
  unfold State.enterEnding; split
  · exact h
  · exact ((h.closeRec o none).relieve).engines _ _

theorem Follows.leaveEnding (r : Run) (h : Follows s t) : Follows s (t.leaveEnding r) := by
  unfold State.leaveEnding; dsimp only
  split
  · exact (h.writePhaseEnd _ _ _).emptyStack
  · exact (h.queueYield.writePhaseEnd _ _ _).emptyStack

theorem Follows.endStack (o : RunOutcome) (h : Follows s t) : Follows s (t.endStack o) := by
  unfold State.endStack; dsimp only
  apply Follows.relieve
  refine Follows.withdraw _ _ (.inl rfl) ?_
  split
  · exact h.emptyStack
  · exact ((h.closeRec _ _).writePhaseEnd _ _ _).emptyStack

theorem Follows.startRun (m : Manoeuvre) (f : Option LiftFn) (h : Follows s t) : Follows s (t.startRun m f) := by
  unfold State.startRun; dsimp only; split
  · exact h.engines _ _
  · exact (h.engines _ _).queueClaim m

theorem Follows.commands (l : List Chan) (p : State → Chan → Bool) (x : ChanCmd) (h : Follows s t) :
    Follows s (l.foldl (fun t c => if p t c then t else t.command c x) t) := by
  induction l generalizing t with
  | nil => exact h
  | cons c l ih => exact ih (by dsimp only; split; exacts [h, h.chan _ _])

theorem Follows.relieveUnnamed (m : Manoeuvre) (h : Follows s t) : Follows s (t.relieveUnnamed m) :=
  h.commands allChans (fun _ c => ((m.steps _).map StepDef.chan).contains c) .relieve

theorem Follows.switchTo (m : Manoeuvre) (f : Option LiftFn) (h : Follows s t) : Follows s (t.switchTo m f) := by
  unfold State.switchTo; split
  · exact h
  · dsimp only
    split
    · split
      · exact ((((((h.closeRec _ _).writePhaseEnd _ _ _).hold).engines _ _).relieveUnnamed m)).arm _ _ _
      · exact (((h.closeRec _ _).writePhaseEnd _ _ _).hold).engines _ _
    · exact ((((h.closeRec _ _).writePhaseEnd _ _ _).hold).relieve).engines _ _

theorem Follows.requestIdle (m : Manoeuvre) (f : Option LiftFn) (h : Follows s t) : Follows s (t.requestIdle m f) := by
  unfold State.requestIdle; split
  · exact h.writeRequest _ _ _
  · split
    · exact h.writeRequest _ _ _
    · exact h.startRun m f

theorem Follows.touchRequest (m : Manoeuvre) (h : Follows s t) : Follows s (t.touchRequest m) := by
  unfold State.touchRequest; split
  · exact h.requestIdle m none
  · split
    · exact h.writeRequest _ _ _
    · split
      · exact h.enterEnding _ _
      · exact h.switchTo _ _
    · split
      · exact h.enterEnding _ _
      · exact h.switchTo _ _
    · exact h

theorem Follows.resumeRun (r : Run) (h : Follows s t) : Follows s (t.resumeRun r) := by
  unfold State.resumeRun; split
  · exact h
  · exact (h.setRun _).arm _ _ _

theorem Follows.heldBegin (f : LiftFn) (h : Follows s t) : Follows s (t.heldBegin f) := by
  unfold State.heldBegin; split
  · exact h.requestIdle _ _
  · split
    · exact h.writeRequest _ _ _
    · split
      · exact h.resumeRun _
      · exact h.switchTo _ _
    · exact h
    · exact h

theorem Follows.pauseRun (r : Run) (h : Follows s t) : Follows s (t.pauseRun r) := by
  unfold State.pauseRun; split
  · exact h
  · exact ((h.hold).setRun _).setSteps _

theorem Follows.heldEnd (f : LiftFn) (h : Follows s t) : Follows s (t.heldEnd f) := by
  unfold State.heldEnd; split
  · exact h
  · split
    · split
      · exact h.enterEnding _ _
      · exact h.pauseRun _
      · exact h
      · exact h
    · exact h

theorem Follows.grantRun (r : Run) (h : Follows s t) : Follows s (t.grantRun r) := by
  unfold State.grantRun; dsimp only
  exact ((h.write _).engines _ _).arm _ _ _

theorem Follows.yieldStray (h : Follows s t) : Follows s t.yieldStray := by
  unfold State.yieldStray; split
  · exact h
  · exact h.queueYield

theorem Follows.takeVerdict (v : Verdict) (h : Follows s t) : Follows s (t.takeVerdict v) := by
  unfold State.takeVerdict
  split
  · split <;> first | exact h.yieldStray | exact h
  · split <;> (try split) <;> first | exact h | exact h.grantRun _ | exact h.yieldStray | exact h.enterEnding _ _

theorem Follows.stepTo (c : CurStep) (x : StepState) (h : Follows s t) : Follows s (t.stepTo c x) := h.setSteps _
theorem Follows.stepEnds (c : CurStep) (o : RunOutcome) (x : Option Cause) (h : Follows s t) :
    Follows s (t.stepEnds c o x) := h.setSteps _

theorem Follows.failStep (c : CurStep) (d : StepDef) (x : Cause) (b : Bool) (h : Follows s t) :
    Follows s (t.failStep c d x b) := by
  unfold State.failStep; dsimp only; split
  · exact ((h.chan _ _).change _).setSteps _
  · split
    · exact (((h.chan _ _).openRec _).closeRec _ _).stepEnds _ _ _
    · exact ((h.chan _ _).closeRec _ _).stepEnds _ _ _

theorem Follows.stepDone (c : CurStep) (d : StepDef) (h : Follows s t) : Follows s (t.stepDone c d) :=
  ((h.chan _ _).closeRec _ _).stepEnds _ _ _

theorem Follows.stepSkipped (c : CurStep) (h : Follows s t) : Follows s (t.stepSkipped c) :=
  (h.closeRec _ _).stepEnds _ _ _

theorem Follows.enterOpening (c : CurStep) (d : StepDef) (h : Follows s t) : Follows s (t.enterOpening c d) := by
  unfold State.enterOpening; dsimp only
  split <;> first | exact (h.stepTo _ _).chan _ _ | exact h.stepTo _ _

theorem Follows.leaveArming (r : Run) (c : CurStep) (d : StepDef) (h : Follows s t) :
    Follows s (t.leaveArming r c d) := by
  unfold State.leaveArming; split
  · exact h.setSteps _
  · exact h.enterOpening _ _

theorem Follows.makeNest (r : Run) (d : StepDef) (m : Manoeuvre) (h : Follows s t) :
    Follows s (t.makeNest r d m) := by
  unfold State.makeNest; dsimp only
  exact (((h.chan _ _).closeRec _ _).engines _ _).arm _ _ _

theorem Follows.nestTrigger (r : Run) (c : CurStep) (d : StepDef) (m : Manoeuvre) (h : Follows s t) :
    Follows s (t.nestTrigger r c d m) := by
  unfold State.nestTrigger
  split
  · exact h.failStep _ _ _ _
  · split
    · exact h.failStep _ _ _ _
    · split
      · exact h.makeNest _ _ _
      · exact h.failStep _ _ _ _

theorem Follows.driveStep (c : CurStep) (d : StepDef) (h : Follows s t) : Follows s (t.driveStep c d) :=
  (h.chan _ _).setSteps _

theorem Follows.stallStep (c : CurStep) (d : StepDef) (h : Follows s t) : Follows s (t.stallStep c d) :=
  (h.chan _ _).setSteps _

theorem Follows.completeTop (r : Run) (h : Follows s t) : Follows s (t.completeTop r) := by
  unfold State.completeTop; split
  · exact h.enterEnding _ _
  · exact (h.setRun _).arm _ _ _

theorem Follows.failTop (r : Run) (c : Option Cause) (h : Follows s t) : Follows s (t.failTop r c) := by
  unfold State.failTop; split
  · exact h.enterEnding _ _
  · dsimp only
    split
    · exact (h.setRun _).enterEnding _ _
    · exact ((h.setRun _).setSteps _).failStep _ _ _ _

theorem Follows.takeOutcome (r : Run) (o : RunOutcome) (c : Option Cause) (h : Follows s t) :
    Follows s (t.takeOutcome r o c) := by
  unfold State.takeOutcome; split
  · exact h.failTop _ _
  · dsimp only
    split
    · exact (h.setRun _).completeTop _
    · exact (h.setRun _).arm _ _ _

/-! ## Moves -/

theorem Follows.relieveOthers (c : Chan) (h : Follows s t) : Follows s (t.relieveOthers c) := by
  unfold State.relieveOthers
  have := h.commands allChans (fun t x => decide (x = c ∨ (t.chans.get x).state.settled = true)) .relieve
  simpa only [decide_eq_true_eq] using this

theorem Follows.toGate (c : CurStep) (g : Gate) (h : Follows s t) : Follows s (t.toGate c g) := h.setSteps _

theorem startRecovery_follows (h : s.startRecovery = some t) : Follows s t := by
  unfold State.startRecovery at h
  split at h <;> cases h
  exact (Follows.refl s).setSteps _

theorem armingMove_follows {r : Run} {c : CurStep} {d : StepDef} (h : s.armingMove r c d = some t) : Follows s t := by
  unfold State.armingMove at h
  have h0 := Follows.refl s
  split at h
  · split at h <;> cases h
    · exact (h0.relieveOthers _).toGate _ _
    · exact h0.toGate _ _
  · split at h
    · cases h; exact h0.toGate _ _
    · exact startRecovery_follows h
  · split at h
    · split at h <;> cases h
      · exact h0.stepSkipped _
      · exact h0.toGate _ _
    · cases h; exact h0.toGate _ _
  · split at h
    · cases h; exact h0.leaveArming _ _ _
    · exact startRecovery_follows h

theorem drivingMove_follows {r : Run} {c : CurStep} {d : StepDef} (h : s.drivingMove r c d = some t) :
    Follows s t := by
  unfold State.drivingMove at h
  have h0 := Follows.refl s
  split at h
  · cases h; exact h0.stepDone _ _
  · split at h
    · cases h; exact h0.nestTrigger _ _ _ _
    · split at h
      · cases h; exact h0.stallStep _ _
      · split at h <;> (try split at h) <;> cases h <;>
          first | exact h0.failStep _ _ _ _ | exact h0.driveStep _ _

theorem plainMove_follows {r : Run} {c : CurStep} {d : StepDef} (h : s.plainMove r c d = some t) : Follows s t := by
  unfold State.plainMove at h
  have h0 := Follows.refl s
  cases hc : c.state <;> simp only [hc] at h
  case arming => exact armingMove_follows h
  case driving => exact drivingMove_follows h
  all_goals
    repeat' split at h
  all_goals
    first
    | (cases h; done)
    | (cases h
       first
       | exact h0.stepTo _ _
       | exact h0.setSteps _
       | exact h0.arm _ _ _)

theorem stepMove_follows (h : stepMove s = some t) : Follows s t := by
  unfold stepMove at h
  have h0 := Follows.refl s
  split at h
  · split at h
    · split at h
      · cases h; exact h0.takeOutcome _ _ _
      · split at h
        · cases h
        · split at h
          · cases h; exact h0.failStep _ _ _ _
          · split at h
            · cases h; exact h0.failStep _ _ _ _
            · exact plainMove_follows h
    · cases h
  · cases h

theorem runMove_follows (h : runMove s = some t) : Follows s t := by
  unfold runMove at h
  have h0 := Follows.refl s
  repeat' split at h
  all_goals
    first
    | (cases h; done)
    | (cases h
       first
       | exact h0.leaveEnding _
       | exact h0.setRun _
       | exact (h0.setRun _).queueYield
       | exact (h0.setRun _).queueClaim _)

theorem engineMove_follows (h : engineMove s = some t) : Follows s t := by
  unfold engineMove at h
  split at h
  · cases h; exact stepMove_follows (by assumption)
  · exact runMove_follows h

theorem Follows.noteChange (old : State) (h : Follows s t) : Follows s (State.noteChange old t) := by
  rcases noteChange_cases old t with e | ⟨_, e | e | e⟩ <;> rw [e]
  · exact h
  · exact h.queue _ rfl
  · exact h.post true
  · exact (h.queue _ rfl).post true

theorem passes_follows : ∀ f ∈ passes, ∀ s, Follows s (f s) := by
  refine passes_cases ?_ ?_ ?_ ?_ ?_ ?_ ?_ ?_ ?_
  · intro s; unfold snapshotPass; split
    · exact .refl s
    · split
      · exact (Follows.refl s).queue _ rfl
      · exact (Follows.refl s).withdraw _ _ (.inr rfl)
  · intro s; exact (Follows.refl s).blocks _ _ _ _
  · intro g s; unfold demandPass; split
    · exact (Follows.refl s).blocks _ _ _ _
    · exact .refl s
  · intro s; unfold lampTestPass; split
    · exact (Follows.refl s).blocks _ _ _ _
    · exact .refl s
  · intro s; unfold cabPass; split
    · exact .refl s
    · exact (Follows.refl s).blocks _ _ _ _
  · intro s; unfold nodeOkPass; split
    · exact .refl s
    · exact (Follows.refl s).blocks _ _ _ _
  · intro s; unfold believePass; split
    · exact (Follows.refl s).blocks _ _ _ _
    · exact .refl s
  · intro s; exact (Follows.refl s).blocks _ _ _ _
  · intro s; unfold plausPass; split
    · exact .refl s
    · exact (Follows.refl s).blocks _ _ _ _

/-- Everything `finish` does is a chain of the updates of `Follows`. -/
theorem finish_follows (old s : State) : Follows s (finish old s) := by
  apply finish_keeps (P := Follows s)
  · exact fun _ _ h ih => ih.trans (engineMove_follows h)
  · exact fun old _ h => h.noteChange old
  · exact fun f hf t h => h.trans (passes_follows f hf t)
  · exact .refl s

/-! ## What a chain keeps -/

theorem follows_outer (h : Follows s t) : outer t = outer s := by
  induction h with
  | refl => rfl
  | queue f _ _ ih => rw [queue_outer, ih]
  | _ => assumption

/-- A pending frame of no own traffic stays pending, and so does a YIELD or a POSTURE. -/
theorem Follows.pends {f : TxFrame} (h : Follows s t) (hf : f.kind ≠ .claim) (hg : f.kind ≠ .snapshot) (hp : s.pends f) :
    t.pends f := by
  have one : ∀ (u : State) (g : TxFrame), ownTraffic g.kind = true → u.pends f → (u.queue g).pends f := by
    intro u g hg' hu
    by_cases hk : f.kind = g.kind
    · refine pends_queue hu (.inl ?_)
      cases g <;> simp [ownTraffic, TxFrame.kind] at hg' <;> cases f <;> simp_all [TxFrame.kind]
    · exact pends_queue hu (.inr hk)
  refine h.keeps (P := fun t => t.pends f) hp (fun _ _ _ h => h) (fun _ _ _ h => h) (fun _ h => h)
    (fun _ h => h) (fun _ _ h => h) (fun _ _ h => h) one ?_ (fun _ _ h => h) (fun _ _ _ _ _ h => h)
  rintro u k x (rfl | rfl) hu
  · exact pends_withdraw hu hf
  · exact pends_withdraw hu hg

/-- No frame but own traffic enters the transmit list. -/
theorem Follows.mem_tx {e : TxEntry} (h : Follows s t) (he : e ∈ t.link.tx) (hk : ownTraffic e.frame.kind = false) :
    e ∈ s.link.tx := by
  refine h.keeps (P := fun t => e ∈ t.link.tx → e ∈ s.link.tx) id (fun _ _ _ h => h) (fun _ _ _ h => h)
    (fun _ h => h) (fun _ h => h) (fun _ _ h => h) (fun _ _ h => h) ?_ ?_ (fun _ _ h => h) (fun _ _ _ _ _ h => h) he
  · intro u g hg hu hm
    exact hu (mem_queue_tx hm (fun hc => by rw [hc, hg] at hk; cases hk))
  · intro u k x hkx hu hm
    refine hu (mem_withdraw_tx hm (fun hc => ?_))
    rcases hkx with rfl | rfl <;> rw [hc] at hk <;> cases hk

theorem faulted_after {c : ChanRec} (cmd : ChanCmd) (h : c.state = .faulted) : (c.after cmd).state = .faulted := by
  cases c with
  | mk st b t => cases cmd <;> simp_all [ChanRec.after, ChanRec.command]

theorem set_get (u : ChanUnit) (c x : Chan) (y : ChanRec) : (u.set c y).get x = if x = c then y else u.get x := by
  cases c <;> cases x <;> rfl

theorem each_get (u : ChanUnit) (f : ChanRec → ChanRec) (x : Chan) : (u.each f).get x = f (u.get x) := by
  cases x <;> rfl

/-- A FAULTED channel stays FAULTED. -/
theorem Follows.faulted {x : Chan} (h : Follows s t) (hx : (s.chans.get x).state = .faulted) :
    (t.chans.get x).state = .faulted := by
  refine h.keeps (P := fun t => (t.chans.get x).state = .faulted) hx (fun _ _ _ h => h) ?_ ?_ ?_
    (fun _ _ h => h) (fun _ _ h => h) ?_ (fun _ _ _ _ h => h) (fun _ _ h => h) (fun _ _ _ _ _ h => h)
  · intro u c cmd hu
    simp only [State.command, set_get]
    split
    · rename_i hc; subst hc; exact faulted_after cmd hu
    · exact hu
  · intro u hu; simp only [State.relieveAll, each_get]; exact faulted_after _ hu
  · intro u hu; simp only [State.holdDriving, each_get, hu]
  · intro u f _ hu; unfold State.queue; split <;> exact hu

end Sys2Proof.Laws
end

