-- ==== Sys2Proof/Laws/Body.lean ====
section
/-! SUPPORT. What a departure from the body leaves behind, and the laws of pump and beacons that hold after every finished
event. -/

namespace Sys2Proof.Laws

open Sys2Proof.Machine

/-! ## Ending the stack -/

theorem after_relieve (c : ChanRec) :
    (c.after .relieve).state.letDown = true ∧ ((c.after .relieve).state = .faulted ↔ c.state = .faulted) := by
  cases c with
  | mk st b t => cases st <;> simp [ChanRec.after, ChanRec.command, ChanState.letDown, ChanRec.enter]

theorem endStack_runs (s : State) (o : RunOutcome) :
    (s.endStack o).runs = { run := none, counter := s.runs.counter, claimWait := none, fn := none } ∧
      (s.endStack o).steps = StepUnit.none := by
  unfold State.endStack
  cases h : s.runs.run <;> exact ⟨rfl, rfl⟩

theorem endStack_chans (s : State) (o : RunOutcome) (x : Chan) :
    (s.endStack o).chans.get x = (s.chans.get x).after .relieve := by
  unfold State.endStack
  cases h : s.runs.run <;> exact each_get _ _ _

theorem endStack_link (s : State) (o : RunOutcome) : (s.endStack o).link = (s.withdraw .claim none).link := by
  unfold State.endStack
  cases h : s.runs.run <;> rfl

theorem endStack_others (s : State) (o : RunOutcome) :
    (s.endStack o).pump = s.pump ∧ (s.endStack o).beacon = s.beacon ∧ (s.endStack o).post = s.post := by
  unfold State.endStack
  cases h : s.runs.run <;> exact ⟨rfl, rfl, rfl⟩

/-! ## Pump and beacons after an event -/

theorem pumpWanted_congr {s t : State} (h1 : t.straps = s.straps) (h2 : t.member = s.member) (h3 : t.table = s.table)
    (h4 : t.lines = s.lines) (h5 : t.runs = s.runs) (h6 : t.steps = s.steps) (h7 : t.pump.rest = s.pump.rest) :
    t.pumpWanted = s.pumpWanted := by
  cases s; cases t
  dsimp only at *
  subst h1 h2 h3 h4 h5 h6
  simp only [State.pumpWanted, h7]
  rfl

theorem noteChange_pumpLaws {old s : State} (h : s.pumpLaws = true) : (State.noteChange old s).pumpLaws = true := by
  have ho := outer_fields (noteChange_outer old s)
  have hb := noteChange_blocks old s
  unfold State.pumpLaws at *
  rw [pumpWanted_congr ho.1 ho.2.2.1 ho.2.2.2.1 ho.2.2.2.2.1 (noteChange_runs old s) (noteChange_steps old s)
    (by rw [hb.1]), hb.1]
  exact h

theorem pumpPass_laws (s : State) : (pumpPass s).pumpLaws = true := by
  have hr : (s.pump.turn s.pumpWanted).rest = s.pump.rest := by
    unfold PumpUnit.turn; split
    · rfl
    · split <;> rfl
  unfold State.pumpLaws
  rw [pumpWanted_congr (s := s) (t := pumpPass s) rfl rfl rfl rfl rfl rfl hr]
  exact beq_iff_eq.mpr (turn_on _ _)

theorem plausPass_laws {s : State} (h : s.pumpLaws = true) : (plausPass s).pumpLaws = true := by
  unfold plausPass; split
  · exact h
  · exact h

/-- The pump output follows R163 after every finished event. -/
theorem finish_pumpLaws (old s : State) : (finish old s).pumpLaws = true := by
  unfold finish follow
  generalize settle settleFuel (State.noteChange old s) = u
  simp only [passes, List.foldl_cons, List.foldl_nil]
  exact noteChange_pumpLaws (plausPass_laws (noteChange_pumpLaws (pumpPass_laws _)))

/-- Hazard, and the demand mark of each group. -/
def demands (s : State) := (s.beacon.hazard, fun g => (s.beacon.get g).demanded)

theorem beacon_set_get (u : BeaconUnit) (g h : Sys2Proof.Group) (x : GroupRec) :
    (u.set g x).get h = if h = g then x else u.get h := by
  cases g <;> cases h <;> rfl

theorem cutTest_get (u : BeaconUnit) (g : Sys2Proof.Group) : u.cutTest.get g = u.get g := by
  unfold BeaconUnit.cutTest; split <;> cases g <;> rfl

theorem cutTest_hazard (u : BeaconUnit) : u.cutTest.hazard = u.hazard := by
  unfold BeaconUnit.cutTest; split <;> rfl

theorem demandChange_demanded (x : GroupRec) (b : Bool) : (x.demandChange b).demanded = b := by
  unfold GroupRec.demandChange
  split <;> rfl

theorem set_hazard (u : BeaconUnit) (g : Sys2Proof.Group) (x : GroupRec) : (u.set g x).hazard = u.hazard := by
  cases g <;> rfl

theorem demandTo_demanded (u : BeaconUnit) (g h : Sys2Proof.Group) (b : Bool) :
    ((u.demandTo g b).get h).demanded = (if h = g then b else (u.get h).demanded) ∧ (u.demandTo g b).hazard = u.hazard := by
  unfold BeaconUnit.demandTo
  split
  · rename_i hb; refine ⟨?_, rfl⟩; split
    · rename_i hg; rw [hg, hb]
    · rfl
  · split
    · rename_i hb
      rw [beacon_set_get, set_hazard, cutTest_hazard]
      refine ⟨?_, rfl⟩
      split
      · rw [demandChange_demanded, hb]
      · rw [cutTest_get]
    · rename_i hb
      rw [beacon_set_get, set_hazard]
      refine ⟨?_, rfl⟩
      split
      · rw [demandChange_demanded]; simp at hb; exact hb.symm
      · rfl

theorem hazardTo_demanded (u : BeaconUnit) (g : Sys2Proof.Group) (b : Bool) :
    ((u.hazardTo b).get g).demanded = (u.get g).demanded ∧ (u.hazardTo b).hazard = b := by
  unfold BeaconUnit.hazardTo
  split
  · rename_i h; exact ⟨rfl, h.symm⟩
  · split
    · rename_i h; refine ⟨?_, h.symm⟩
      have := cutTest_get u g
      cases g <;> exact congrArg GroupRec.demanded this
    · rename_i h; refine ⟨by cases g <;> rfl, ?_⟩
      simp at h; exact h.symm

theorem testFor_demanded (u : BeaconUnit) (g : Sys2Proof.Group) (b : Bool) :
    ((u.testFor b).get g).demanded = (u.get g).demanded ∧ (u.testFor b).hazard = u.hazard := by
  unfold BeaconUnit.testFor
  split
  · split <;> cases g <;> exact ⟨rfl, rfl⟩
  · exact ⟨by rw [cutTest_get], cutTest_hazard u⟩
  · exact ⟨rfl, rfl⟩

/-- What hazard and demands depend on. -/
def cause (s : State) := (s.straps, s.member, s.table)

theorem cause_demand {s t : State} (h : cause t = cause s) :
    t.hazardCause = s.hazardCause ∧ ∀ g, t.demand g = s.demand g := by
  simp only [cause, Prod.mk.injEq] at h
  obtain ⟨h1, h2, h3⟩ := h
  refine ⟨by simp only [State.hazardCause, State.latched, h1, h2, h3], fun g => ?_⟩
  simp only [State.demand, State.zoneHeld, State.memberOf, State.members, State.reportedUnfolded, State.entry, h2, h3]

/-- A change that leaves causes and demand marks keeps the beacon laws. -/
theorem beaconLaws_congr {s t : State} (hc : cause t = cause s) (hz : t.beacon.hazard = s.beacon.hazard)
    (hd : ∀ g, (t.beacon.get g).demanded = (s.beacon.get g).demanded) : t.beaconLaws = s.beaconLaws := by
  have h := cause_demand hc
  have h1 : t.straps = s.straps := by simp only [cause, Prod.mk.injEq] at hc; exact hc.1
  simp only [State.beaconLaws, h.1, h.2, hz, hd, h1]

theorem noteChange_cause (old s : State) : cause (State.noteChange old s) = cause s := by
  have ho := outer_fields (noteChange_outer old s)
  simp only [cause, ho.1, ho.2.2.1, ho.2.2.2.1]

theorem noteChange_beaconLaws (old s : State) : (State.noteChange old s).beaconLaws = s.beaconLaws := by
  have hb := noteChange_blocks old s
  exact beaconLaws_congr (noteChange_cause old s) (by rw [hb.2.1]) (by intro g; rw [hb.2.1])

/-- The part of the beacon laws that the passes have settled so far: hazard, and the groups of a list. -/
def settledFor (l : List Sys2Proof.Group) (s : State) : Prop :=
  s.beacon.hazard = s.hazardCause ∧ (s.straps.role = .beacon → ∀ g ∈ l, (s.beacon.get g).demanded = s.demand g)

theorem settledFor_note {l : List Sys2Proof.Group} {old s : State} (h : settledFor l s) :
    settledFor l (State.noteChange old s) := by
  have hb := noteChange_blocks old s
  have hc := cause_demand (noteChange_cause old s)
  have ho := outer_fields (noteChange_outer old s)
  refine ⟨by rw [hb.2.1, hc.1]; exact h.1, fun hr g hg => ?_⟩
  rw [ho.1] at hr
  rw [hb.2.1, hc.2]
  exact h.2 hr g hg

theorem settledFor_hazard (s : State) : settledFor [] (hazardPass s) :=
  ⟨(hazardTo_demanded s.beacon .rear s.hazardCause).2, fun _ g hg => by cases hg⟩

theorem settledFor_demand {l : List Sys2Proof.Group} {g : Sys2Proof.Group} {s : State} (h : settledFor l s) :
    settledFor (g :: l) (demandPass g s) := by
  unfold demandPass
  split
  · refine ⟨((demandTo_demanded s.beacon g g (s.demand g)).2.trans h.1), fun hr x hx => ?_⟩
    have := (demandTo_demanded s.beacon g x (s.demand g)).1
    show ((s.beacon.demandTo g (s.demand g)).get x).demanded = s.demand x
    rw [this]
    split
    · rename_i e; rw [e]
    · rename_i e
      exact h.2 hr x ((List.mem_cons.mp hx).resolve_left e)
  · rename_i hr
    exact ⟨h.1, fun hr' => absurd hr' hr⟩

theorem settledFor_lamp {l : List Sys2Proof.Group} {s : State} (h : settledFor l s) : settledFor l (lampTestPass s) := by
  unfold lampTestPass
  split
  · refine ⟨((testFor_demanded s.beacon .rear _).2.trans h.1), fun hr x hx => ?_⟩
    exact ((testFor_demanded s.beacon x _).1.trans (h.2 hr x hx))
  · exact h

/-- Hazard and the groups' demands follow R179 and R175 after every finished event. -/
theorem finish_beaconLaws (old s : State) : (finish old s).beaconLaws = true := by
  have h : settledFor allGroups (finish old s) := by
    unfold finish follow
    generalize settle settleFuel (State.noteChange old s) = u
    simp only [passes, List.foldl_cons, List.foldl_nil]
    have cab : ∀ {t : State}, settledFor allGroups t → settledFor allGroups (cabPass t) := by
      intro t ht; unfold cabPass; split <;> exact ht
    have ok : ∀ {t : State}, settledFor allGroups t → settledFor allGroups (nodeOkPass t) := by
      intro t ht; unfold nodeOkPass; split <;> exact ht
    have bel : ∀ {t : State}, settledFor allGroups t → settledFor allGroups (believePass t) := by
      intro t ht; unfold believePass; split <;> exact ht
    have pum : ∀ {t : State}, settledFor allGroups t → settledFor allGroups (pumpPass t) := fun ht => ht
    have pla : ∀ {t : State}, settledFor allGroups t → settledFor allGroups (plausPass t) := by
      intro t ht; unfold plausPass; split <;> exact ht
    have all : ∀ {t : State}, settledFor [.flags, .road, .kerb, .rear] t → settledFor allGroups t := by
      intro t ht
      exact ⟨ht.1, fun hr g hg => ht.2 hr g (by cases g <;> decide)⟩
    apply settledFor_note; apply pla
    apply settledFor_note; apply pum
    apply settledFor_note; apply bel
    apply settledFor_note; apply ok
    apply settledFor_note; apply cab
    apply settledFor_note; apply settledFor_lamp
    apply all
    apply settledFor_note; apply settledFor_demand
    apply settledFor_note; apply settledFor_demand
    apply settledFor_note; apply settledFor_demand
    apply settledFor_note; apply settledFor_demand
    apply settledFor_note; exact settledFor_hazard _
  unfold State.beaconLaws
  rw [h.1]
  by_cases hr : (finish old s).straps.role = .beacon
  · have := h.2 hr
    simp only [beq_self_eq_true, Bool.true_and, Bool.or_eq_true, List.all_eq_true, beq_iff_eq]
    exact .inr this
  · simp only [beq_self_eq_true, Bool.true_and, Bool.or_eq_true, bne_iff_ne]
    exact .inl hr

/-! ## Leaving -/

theorem leave_runs (s : State) (d : Departure) (c : Cause) :
    (s.leave d c).runs = { run := none, counter := s.runs.counter, claimWait := none, fn := none } ∧
      (s.leave d c).steps = StepUnit.none := endStack_runs s .isolated

theorem leave_mstate (s : State) (d : Departure) (c : Cause) : (s.leave d c).member.mstate = d.mstate := rfl

theorem departure_not_member (d : Departure) : d.mstate ≠ .member := by cases d <;> decide

/-- A record just written is the youngest (R190). -/
theorem writeRec_youngest (s : State) (r : LogRec) : (s.writeRec r).log.youngest = some r := by
  simp [State.writeRec, putRecord, LogUnit.youngest]

/-- The records of a stack that ends at once, and nothing else, stand in the log (R112, R188). -/
theorem endStack_log (s : State) (o : RunOutcome) : (s.endStack o).log = (s.runRecordsEnded o).log := by
  unfold State.endStack State.runRecordsEnded
  cases s.runs.run with
  | none => rfl
  | some r => cases hr : r.ending <;> simp only [hr] <;> rfl

/-- What a departure leaves in the log. -/
theorem leave_log (s : State) (d : Departure) (c : Cause) :
    (s.leave d c).log = ((s.runRecordsEnded .isolated).writeRec (s.departureRec d c)).log := by
  have ho := outer_fields (endStack_outer s .isolated)
  have hc : (s.endStack .isolated).runs.counter = s.runs.counter := by rw [(endStack_runs s .isolated).1]
  have ht : (s.endStack .isolated).log.tag = s.log.tag := ho.2.2.2.2.2.2.2.1
  show ((s.endStack .isolated).writeRequest none d.outcome c).log = _
  have htag : (s.runRecordsEnded .isolated).log.tag = s.log.tag := by rw [← endStack_log]; exact ht
  unfold State.writeRequest State.writeRec State.departureRec
  simp only [hc, endStack_log, htag]

/-- The detector after a HALT or a departure, input by input (R74). -/
theorem heldAfterHalt_eq (s : State) : s.heldAfterHalt =
    match s.lines.held with
    | .held _ | .spent => .spent
    | .armed =>
      if s.straps.role = .lift ∧ s.input 2 = true ∧ (s.input 3 = true ∨ s.input 4 = true ∨ s.input 5 = true ∨
        s.input 6 = true ∨ s.input 7 = true ∨ s.input 8 = true) then .spent
      else .armed := by
  have active : s.activeFns ≠ [] ↔ (s.input 3 = true ∨ s.input 4 = true ∨ s.input 5 = true ∨ s.input 6 = true ∨
      s.input 7 = true ∨ s.input 8 = true) := by
    rw [Ne, State.activeFns, List.filter_eq_nil_iff]
    simp only [allFns, LiftFn.input, List.forall_mem_cons, List.not_mem_nil, false_implies, implies_true, and_true]
    tauto
  unfold State.heldAfterHalt
  cases s.lines.held <;> simp only [active]

/-- A departure, finished, leaves the node as R39 says. -/
theorem leave_hasLeft (old s : State) (d : Departure) (c : Cause) : hasLeft s (finish old (s.leave d c)) d c := by
  have hr : (s.leave d c).runs.run = none := by rw [(leave_runs s d c).1]
  have hm : (s.leave d c).member.mstate ≠ .member := departure_not_member d
  obtain ⟨h1, h2, h3, h4⟩ := inner_fields (finish_inner_of_no_run (old := old) hr)
  obtain ⟨h5, h6⟩ := finish_link_of_not_member (old := old) hr hm rfl
  have ho := outer_fields (endStack_outer s .isolated)
  refine ⟨?_, ?_, ?_, ?_, ?_, ?_, ?_, ?_, ?_, ?_⟩
  · rw [finish_member]
    refine ⟨rfl, rfl, ?_, ?_, rfl, ?_, rfl, rfl, ?_⟩
    · intro n
      show (finish old (s.leave d c)).member.roster[n] = _
      rw [finish_member]
      show (Vector.replicate 8 Entry.blank)[n] = _
      simp
    · show (s.endStack .isolated).member.takeCount = _
      rw [ho.2.2.1]
    · intro n
      show (Vector.replicate 8 false)[n] = _
      simp
    · cases d <;> rfl
  · rw [finish_table]; exact ⟨rfl, rfl⟩
  · rw [h5]; exact ⟨rfl, rfl, rfl, rfl⟩
  · rw [h1, h2, h3, (leave_runs s d c).1, (leave_runs s d c).2]
    refine ⟨rfl, rfl, fun x => ?_⟩
    have : (s.leave d c).chans.get x = (s.chans.get x).after .relieve := endStack_chans s .isolated x
    rw [this]; exact after_relieve _
  · rw [finish_lines]
    refine ⟨rfl, rfl, rfl, ?_⟩
    have hl : (s.endStack .isolated).lines = s.lines := ho.2.2.2.2.1
    have hs : (s.endStack .isolated).straps = s.straps := ho.1
    show (s.endStack .isolated).heldAfterHalt = _
    simp only [heldAfterHalt_eq, State.input, hl, hs]
    cases s.lines.held <;> rfl
  · rw [h6]; exact ⟨rfl, rfl, rfl⟩
  · have := finish_pumpLaws old (s.leave d c)
    unfold State.pumpLaws at this
    have hw : (finish old (s.leave d c)).pumpWanted = false := by
      have hn : ((finish old (s.leave d c)).member.mstate == .member) = false := by
        rw [finish_member]; cases d <;> rfl
      simp only [State.pumpWanted, hn, Bool.and_false, Bool.false_and]
    rw [hw] at this
    exact beq_iff_eq.mp this
  · rw [finish_port]
    show (s.endStack .isolated).port.left = _
    rw [show (s.endStack .isolated).port = s.port from ho.2.2.2.2.2.1]
    unfold PortUnit.left
    cases s.port.relay <;> rfl
  · rw [h4, leave_log]; exact writeRec_youngest _ _
  · rw [h4, leave_log]

end Sys2Proof.Laws
end

