-- ==== Sys2Proof/Laws/Codes.lean ====
section
/-! SUPPORT. The small lemmas of the codes in which values travel: each field's code reads back, a reading gives exactly
the values in range (R2, R18, R21, R31, R44, R78, R86, R150, R195), the CRC bit by bit (R3), and the words of a line at
the service port (R192, R193). -/

namespace Sys2Proof.Laws

open Sys2Proof.Machine

/-- A number's bits, most significant first (R2). -/
theorem bitsOf_eq (w n : Nat) : bitsOf w n = (List.range w).map fun i => n.testBit (w - 1 - i) := by
  unfold bitsOf
  apply List.ext_getElem
  · simp
  · intro i h1 h2; simp at h1 h2 ⊢

/-- A 16-bit field, most significant byte first (R2). -/
theorem bytes16_eq (w : BitVec 16) : bytes16 w = [byte (w.toNat / 256), byte w.toNat] := by
  simp only [bytes16, byte, List.cons.injEq, and_true]
  constructor <;> apply BitVec.eq_of_toNat_eq <;> simp [BitVec.extractLsb'_toNat, Nat.shiftRight_eq_div_pow]

/-- A 24-bit field, most significant byte first (R2). -/
theorem bytes24_eq (w : BitVec 24) : bytes24 w = [byte (w.toNat / 65536), byte (w.toNat / 256), byte w.toNat] := by
  simp only [bytes24, byte, List.cons.injEq, and_true]
  refine ⟨?_, ?_, ?_⟩ <;> apply BitVec.eq_of_toNat_eq <;> simp [BitVec.extractLsb'_toNat, Nat.shiftRight_eq_div_pow]

/-- A byte is that of a number below 256 exactly if it has its value. -/
theorem eq_byte_iff (b : Byte) (n : Nat) (hn : n < 256) : b = byte n ↔ b.toNat = n := by
  rw [byte]; constructor
  · rintro rfl; simp; omega
  · intro h; apply BitVec.eq_of_toNat_eq; simp; omega

/-- The byte of a number below 256 has its value. -/
theorem toNat_byte (n : Nat) (h : n < 256) : (byte n).toNat = n := (eq_byte_iff _ _ h).1 rfl

/-- One more bit of the CRC (R3, assumption 47). -/
theorem crc15_append (l : List Bool) (b : Bool) :
      let generator : BitVec 15 := BitVec.ofNat 15 (([13, 11, 9, 7, 5, 3, 2, 0] : List Nat).map fun i => 2 ^ i).sum
      crc15 (l ++ [b]) =
        if (crc15 l).getLsbD 14 = b then crc15 l <<< 1 else (crc15 l <<< 1) ^^^ generator := by
  intro generator
  have e : crc15 (l ++ [b]) = crcBit (crc15 l) b := by simp [crc15]
  have : generator = 0x2AAD#15 := by decide
  rw [this, e]
  generalize crc15 l = r
  rw [crcBit, BitVec.msb_eq_getLsbD_last]
  cases r.getLsbD 14 <;> cases b <;> simp

/-- A node field reads as the number whose byte it is (R18). -/
theorem readNodeByte_eq_some (b : Byte) (n : Node) : readNodeByte b = some n ↔ b = byte n.val := by
  rw [eq_byte_iff _ _ (by omega)]; unfold readNodeByte; split
  · simp [Fin.ext_iff]
  · simp; omega

/-- The manoeuvre of a code (R86). -/
theorem manoeuvre_ofCode (n : Nat) (m : Manoeuvre) : Manoeuvre.ofCode n = some m ↔ n = m.code := by
  constructor
  · unfold Manoeuvre.ofCode; split <;> intro h <;> cases h <;> rfl
  · rintro rfl; cases m <;> rfl

/-- The role and side of a code (R21). -/
theorem roleSide_ofCode (n : Nat) (m : RoleSide) : RoleSide.ofCode n = some m ↔ n = m.code := by
  constructor
  · unfold RoleSide.ofCode; split <;> intro h <;> cases h <;> rfl
  · rintro rfl; cases m <;> (try (rename_i d; cases d)) <;> rfl

/-- The entry state of a code (R31). -/
theorem eState_ofCode (n : Nat) (m : EState) : EState.ofCode n = some m ↔ n = m.code := by
  constructor
  · unfold EState.ofCode; split <;> intro h <;> cases h <;> rfl
  · rintro rfl; cases m <;> rfl

/-- The step state of a code (R78). -/
theorem stepState_ofCode (n : Nat) (m : StepState) : StepState.ofCode n = some m ↔ n = m.code := by
  constructor
  · unfold StepState.ofCode; split <;> intro h <;> cases h <;> rfl
  · rintro rfl; cases m <;> rfl

/-- Codes of no step state (R78). -/
theorem stepState_ofCode_none (n : Nat) : StepState.ofCode n = none ↔ n = 0 ∨ 9 < n := by
  unfold StepState.ofCode; split <;> simp_all; omega

/-- The membership state of a code (R195). -/
theorem mState_ofCode (n : Nat) (m : MState) : MState.ofCode n = some m ↔ n = m.code := by
  constructor
  · unfold MState.ofCode; split <;> intro h <;> cases h <;> rfl
  · rintro rfl; cases m <;> rfl

/-- The record kind of a code (R195). -/
theorem recKind_ofCode (n : Nat) (m : RecKind) : RecKind.ofCode n = some m ↔ n = m.code := by
  constructor
  · unfold RecKind.ofCode; split <;> intro h <;> cases h <;> rfl
  · rintro rfl; cases m <;> rfl

/-- The outcome of a code (R195). -/
theorem outcome_ofCode (n : Nat) (m : RunOutcome) : RunOutcome.ofCode n = some m ↔ n = m.code := by
  constructor
  · unfold RunOutcome.ofCode; intro h
    have : n < 17 := by rw [List.getElem?_eq_some_iff] at h; exact h.1
    interval_cases n <;> cases h <;> decide
  · rintro rfl; cases m <;> decide

/-- The cause of a code (R195). -/
theorem readCause_eq_some (n : Nat) (m : Option Cause) : readCause n = some m ↔ n = causeCode m := by
  constructor
  · unfold readCause; split
    · intro h; cases h; rfl
    · rename_i k
      split
      · rename_i c hc
        have : k < 26 := by rw [List.getElem?_eq_some_iff] at hc; exact hc.1
        intro h; cases h
        interval_cases k <;> cases hc <;> decide
      · intro h; cases h
  · rintro rfl; cases m with
    | none => rfl
    | some c => cases c <;> decide

/-- Manoeuvre codes are 1-10 (R86). -/
theorem manoeuvre_code_range (m : Manoeuvre) : 1 ≤ m.code ∧ m.code ≤ 10 := by cases m <;> decide

/-- Role codes are at most 6 (R21). -/
theorem roleSide_code_le (m : RoleSide) : m.code ≤ 6 := by cases m <;> (try (rename_i d; cases d)) <;> decide

/-- Step state codes are 1-9 (R78). -/
theorem stepState_code_range (m : StepState) : 1 ≤ m.code ∧ m.code ≤ 9 := by cases m <;> decide

/-- Cause codes are at most 26 (R195). -/
theorem causeCode_le (x : Option Cause) :
    causeCode x ≤ 26 := by
  cases x with | none => decide | some c => cases c <;> decide

/-- Membership state codes are at most 6 (R195). -/
theorem mState_code_le (x : MState) : x.code ≤ 6 := by cases x <;> decide

/-- Outcome codes are at most 16 (R195). -/
theorem outcome_code_le (x : RunOutcome) : x.code ≤ 16 := by cases x <;> decide

/-- Record kind codes are at most 3 (R195). -/
theorem recKind_code_le (x : RecKind) : x.code ≤ 3 := by cases x <;> decide

/-- The value of a field and one more byte. -/
theorem toNat_append_byte {n} (a : BitVec n) (b : Byte) : (a ++ b).toNat = a.toNat * 256 + b.toNat := by
  rw [BitVec.toNat_append, ← Nat.shiftLeft_add_eq_or_of_lt b.isLt, Nat.shiftLeft_eq]

/-- The value of a 16-bit field (R2). -/
theorem toNat_word16 (a b : Byte) : (word16 a b).toNat = a.toNat * 256 + b.toNat := toNat_append_byte a b

/-- The value of a serial (R2). -/
theorem toNat_word24 (a b c : Byte) : (word24 a b c).toNat = (a.toNat * 256 + b.toNat) * 256 + c.toNat := by
  rw [← toNat_append_byte a b]; exact toNat_append_byte (a ++ b) c

/-- A 16-bit field is the one whose bytes it is read from (R2). -/
theorem word16_eq_iff (a b : Byte) (w : BitVec 16) : word16 a b = w ↔ [a, b] = bytes16 w := by
  rw [bytes16_eq, ← BitVec.toNat_inj, toNat_word16]
  simp only [List.cons.injEq, and_true, byte, ← BitVec.toNat_inj, BitVec.toNat_ofNat]
  have := a.isLt; have := b.isLt; have := w.isLt
  constructor
  · intro h; omega
  · intro h; omega

/-- A serial is the one whose bytes it is read from (R2). -/
theorem word24_eq_iff (a b c : Byte) (w : BitVec 24) : word24 a b c = w ↔ [a, b, c] = bytes24 w := by
  rw [bytes24_eq, ← BitVec.toNat_inj, toNat_word24]
  simp only [List.cons.injEq, and_true, byte, ← BitVec.toNat_inj, BitVec.toNat_ofNat]
  have := a.isLt; have := b.isLt; have := c.isLt; have := w.isLt
  constructor
  · intro h; omega
  · intro h; omega

/-- Three bytes read as a run summary exactly if it is in range and they are its bytes (R78, R86). -/
theorem readSummary_eq_some (a b c : Byte) (x : Summary) :
    readSummary a b c = some x ↔ x.inRange = true ∧ [a, b, c] = x.bytes := by
  obtain ⟨d, st, m, i⟩ := x
  have ha := a.isLt; have hb := b.isLt; have hc := c.isLt
  unfold readSummary
  split
  · rename_i h0
    split
    · rename_i h
      obtain ⟨h1, h2, h3⟩ := h
      have e1 : a = byte 0 := (eq_byte_iff _ _ (by omega)).2 h1
      have e2 : b = byte 0 := (eq_byte_iff _ _ (by omega)).2 h2
      have e3 : c = byte 0 := (eq_byte_iff _ _ (by omega)).2 h3
      constructor
      · intro h; cases h; subst e1 e2 e3; exact ⟨rfl, rfl⟩
      · rintro ⟨h, h'⟩
        cases d with
        | zero => cases m with
          | none => simp [Summary.inRange] at h; obtain ⟨rfl, rfl⟩ := h; rfl
          | some m => cases h
        | succ d => cases m with
          | none => cases h
          | some m =>
            simp [Summary.bytes, codeOr0] at h'
            have := (eq_byte_iff b m.code (by have := manoeuvre_code_range m; omega)).1 h'.2.1
            have := manoeuvre_code_range m; omega
    · rename_i h
      constructor
      · intro h; cases h
      · rintro ⟨hr, h'⟩; exfalso
        cases d with
        | zero => cases m with
          | none =>
            simp [Summary.inRange] at hr
            obtain ⟨rfl, rfl⟩ := hr
            simp [Summary.bytes, codeOr0, byte] at h'
            apply h
            simp [h']
          | some m => cases hr
        | succ d => cases m with
          | none => cases hr
          | some m =>
            simp [Summary.inRange] at hr
            simp only [Summary.bytes, List.cons.injEq, and_true] at h'
            have hs : codeOr0 StepState.code st ≤ 9 := by
              cases st with
              | none => simp [codeOr0]
              | some st => exact (stepState_code_range st).2
            have := (eq_byte_iff a _ (by omega)).1 h'.1
            omega
  · rename_i h0
    split
    · rename_i h1
      constructor
      · intro h
        split at h
        · rename_i m' hm
          rw [manoeuvre_ofCode] at hm
          simp at h
          obtain ⟨rfl, hst, rfl, rfl⟩ := h
          refine ⟨?_, ?_⟩
          · obtain ⟨k, hk⟩ : ∃ k, a.toNat / 16 = k + 1 := ⟨a.toNat / 16 - 1, by omega⟩
            rw [hk]; simp [Summary.inRange]; omega
          · have hs : codeOr0 StepState.code st = a.toNat % 16 := by
              cases st with
              | none => rw [stepState_ofCode_none] at hst; simp [codeOr0]; omega
              | some st => rw [stepState_ofCode] at hst; simp [codeOr0, hst]
            simp only [Summary.bytes, List.cons.injEq, and_true]
            rw [hs]
            refine ⟨(eq_byte_iff _ _ (by omega)).2 (by omega), (eq_byte_iff _ _ (by simp only [codeOr0]; omega)).2 hm,
              (eq_byte_iff _ _ (by omega)).2 rfl⟩
        · cases h
      · rintro ⟨hr, h'⟩
        cases d with
        | zero => cases m with
          | none =>
            simp [Summary.inRange] at hr
            obtain ⟨rfl, rfl⟩ := hr
            simp [Summary.bytes, codeOr0, byte] at h'
            simp [h'] at h0
          | some m => cases hr
        | succ d => cases m with
          | none => cases hr
          | some m =>
            simp [Summary.inRange] at hr
            simp only [Summary.bytes, List.cons.injEq, and_true] at h'
            have hs : codeOr0 StepState.code st ≤ 9 := by
              cases st with
              | none => simp [codeOr0]
              | some st => exact (stepState_code_range st).2
            have e1 := (eq_byte_iff a _ (by omega)).1 h'.1
            have e2 := (eq_byte_iff b _ (by have := manoeuvre_code_range m; simp [codeOr0]; omega)).1 h'.2.1
            have e3 := (eq_byte_iff c _ (by omega)).1 h'.2.2
            have hst : StepState.ofCode (a.toNat % 16) = st := by
              have : a.toNat % 16 = codeOr0 StepState.code st := by omega
              rw [this]
              cases st with
              | none => rfl
              | some st => exact (stepState_ofCode _ _).2 rfl
            have hm : Manoeuvre.ofCode b.toNat = some m := (manoeuvre_ofCode _ _).2 e2
            rw [hm, hst]; simp; omega
    · rename_i h1
      constructor
      · intro h; cases h
      · rintro ⟨hr, h'⟩; exfalso
        cases d with
        | zero => cases m with
          | none =>
            simp [Summary.inRange] at hr
            obtain ⟨rfl, rfl⟩ := hr
            simp [Summary.bytes, codeOr0, byte] at h'
            simp [h'] at h0
          | some m => cases hr
        | succ d => cases m with
          | none => cases hr
          | some m =>
            simp [Summary.inRange] at hr
            simp only [Summary.bytes, List.cons.injEq, and_true] at h'
            have hs : codeOr0 StepState.code st ≤ 9 := by
              cases st with
              | none => simp [codeOr0]
              | some st => exact (stepState_code_range st).2
            have e1 := (eq_byte_iff a _ (by omega)).1 h'.1
            have e3 := (eq_byte_iff c _ (by omega)).1 h'.2.2
            omega

/-- Two bytes read as a halt state exactly if it is lawful and they are its bytes (R150). -/
theorem readHalt_eq_some (l c : Byte) (h : HaltState) : readHalt l c = some h ↔ h.laws = true ∧ [l, c] = h.bytes := by
  obtain ⟨lt, n⟩ := h
  have hl := l.isLt; have hc := c.isLt
  unfold readHalt
  cases lt with
  | none =>
    simp only [HaltState.laws, HaltState.bytes, List.cons.injEq, and_true]
    rw [eq_byte_iff l 0 (by omega)]
    split
    · rename_i h0; split
      · rename_i h1; simp [HaltState.off, h0]
        constructor
        · rintro rfl; exact ⟨rfl, (eq_byte_iff _ _ (by omega)).2 h1⟩
        · rintro ⟨h, _⟩; exact h.symm
      · rename_i h1; simp; rintro rfl; simp [h0]; rintro rfl; simp [byte] at h1
    · rename_i h0; simp [h0]
  | some x =>
    simp only [HaltState.laws, HaltState.bytes, List.cons.injEq, and_true]
    rw [eq_byte_iff l (8 + x.val) (by omega)]
    split
    · rename_i h0; split <;> simp [HaltState.off, h0] <;> intros <;> omega
    · rename_i h0; split
      · split
        · simp [Fin.ext_iff]; constructor
          · rintro ⟨_, rfl⟩; exact ⟨by omega, by omega, (eq_byte_iff _ _ (by omega)).2 rfl⟩
          · rintro ⟨_, _, h⟩; rw [eq_byte_iff _ _ (by omega)] at h; omega
        · simp; intro _ _ _ h; rw [eq_byte_iff _ _ (by omega)] at h; omega
      · simp; omega

/-- Two bytes read as a request exactly if they are its bytes (R195). -/
theorem readReq_eq_some (r i : Byte) (q : ProbeReq) : readReq r i = some q ↔ [r, i] = q.bytes := by
  unfold readReq
  cases q with
  | status =>
    simp only [ProbeReq.bytes, List.cons.injEq, and_true]
    rw [eq_byte_iff _ _ (by omega), eq_byte_iff _ _ (by omega)]
    split
    · rename_i h; split <;> rename_i h2 <;> simp [h, h2]
    · rename_i h; split <;> (try split) <;> simp [h]
  | log k =>
    simp only [ProbeReq.bytes, List.cons.injEq, and_true]
    rw [eq_byte_iff _ _ (by omega), eq_byte_iff _ _ (by omega)]
    split
    · rename_i h; split <;> simp [h]
    · rename_i h; split
      · rename_i h1; split
        · simp [h1, Fin.ext_iff]
        · simp [h1]; omega
      · rename_i h1; simp [h1]

/-- Set codes are below 16 (R44). -/
theorem resSet_code_lt (r : ResSet) :
    r.code < 16 := by
  obtain ⟨a,b,c,d⟩ := r; cases a <;> cases b <;> cases c <;> cases d <;> decide

/-- The set of a code (R44). -/
theorem resSet_ofCode (n : Nat) (h : n < 16) (r : ResSet) : ResSet.ofCode n = r ↔ n = r.code := by
  obtain ⟨a,b,c,d⟩ := r; interval_cases n <;> cases a <;> cases b <;> cases c <;> cases d <;> decide

/-- Code 0 names the empty set alone (R44). -/
theorem ne_empty_iff_code (r : ResSet) : r ≠ ResSet.empty ↔ r.code ≠ 0 := by
  obtain ⟨a,b,c,d⟩ := r; cases a <;> cases b <;> cases c <;> cases d <;> decide

/-- Four bytes read as a claim record exactly if it is in range and they are its bytes (R44, R86). -/
theorem readClaimRec_eq_some (a b c d : Byte) (r : ClaimRec) :
    readClaimRec a b c d = some r ↔ r.inRange = true ∧ [a, b, c, d] = r.bytes := by
  obtain ⟨n, rs, u, m, st⟩ := r
  have ha := a.isLt; have hb := b.isLt; have hc := c.isLt; have hd := d.isLt
  have hm := manoeuvre_code_range m; have hr := resSet_code_lt rs
  have hst : (if st = .granted then 16 else 0) ≤ 16 := by split <;> omega
  unfold readClaimRec ClaimRec.bytes ClaimRec.inRange
  simp only [Bool.and_eq_true, bne_iff_ne, decide_eq_true_eq, ne_empty_iff_code]
  have : ([a, b, c, d] = [byte n.val, byte (rs.code + if st = .granted then 16 else 0), byte u, byte m.code]) ↔
     a = byte n.val ∧ b = byte (rs.code + if st = .granted then 16 else 0) ∧ c = byte u ∧ d = byte m.code := by simp
  rw [this, ← readNodeByte_eq_some, eq_byte_iff b _ (by omega), eq_byte_iff d _ (by omega), ← manoeuvre_ofCode]
  cases h1 : readNodeByte a with
  | none => simp
  | some n' => cases h2 : Manoeuvre.ofCode d.toNat with
    | none => simp
    | some m' =>
      simp only [Option.some.injEq]
      split
      · rename_i h
        simp only [Option.some.injEq, ClaimRec.mk.injEq]
        rw [resSet_ofCode _ (by omega)]
        constructor
        · rintro ⟨rfl, h3, rfl, rfl, h4⟩
          refine ⟨⟨by omega, h.2.2⟩, rfl, ?_, (eq_byte_iff _ _ (by omega)).2 rfl, rfl⟩
          rw [← h4, ← h3]; by_cases hh : 16 ≤ b.toNat <;> simp [hh] <;> omega
        · rintro ⟨⟨h3, h4⟩, rfl, h5, h6, rfl⟩
          refine ⟨rfl, ?_, (eq_byte_iff _ _ (by omega)).1 h6, rfl, ?_⟩
          · split at h5 <;> omega
          · cases st <;> simp at h5 ⊢ <;> omega
      · rename_i h; simp; intro h3 h4 _ h5 h6
        have := (eq_byte_iff _ _ (by omega)).1 h6
        exfalso; split at h5 <;> omega

/-- A byte reads as a roster entry exactly if it is the entry's (R31). -/
theorem readRosterByte_eq_some (b : Byte) (x : EState × Option RoleSide) :
    readRosterByte b = some x ↔ b = rosterByte x.1 x.2 := by
  obtain ⟨st, r⟩ := x
  have hb := b.isLt
  have hst : st.code ≤ 4 := by cases st <;> decide
  have hr : roleCode r ≤ 8 := by cases r with
    | none => decide
    | some r => have := roleSide_code_le r; simp [roleCode]; omega
  unfold readRosterByte rosterByte
  rw [eq_byte_iff _ _ (by simp; omega)]
  split
  · rename_i h; simp; intro h'
    have : EState.ofCode (b.toNat / 16) = some st := (eState_ofCode _ _).2 (by omega)
    rw [this] at h; cases h
  · rename_i st' h; rw [eState_ofCode] at h
    have inj : ∀ a b : EState, a.code = b.code ↔ a = b := by intro a b; cases a <;> cases b <;> decide
    split
    · rename_i h8; simp; constructor
      · rintro ⟨rfl, rfl⟩; simp [roleCode]; omega
      · intro h'
        refine ⟨(inj _ _).1 (by omega), ?_⟩
        cases r with
        | none => rfl
        | some r => have := roleSide_code_le r; simp [roleCode] at h'; omega
    · rename_i h8
      split
      · rename_i r' hr'; rw [roleSide_ofCode] at hr'; simp
        constructor
        · rintro ⟨rfl, rfl⟩; simp [roleCode]; omega
        · intro h'
          refine ⟨(inj _ _).1 (by omega), ?_⟩
          cases r with
          | none => simp [roleCode] at h'; omega
          | some r =>
            simp [roleCode] at h'
            have := roleSide_code_le r
            have : RoleSide.ofCode (b.toNat % 16) = some r := (roleSide_ofCode _ _).2 (by omega)
            rw [hr', (roleSide_ofCode _ _).2 rfl] at this; exact this
      · rename_i hr'; simp; intro h'
        cases r with
        | none => simp [roleCode] at h'; omega
        | some r =>
          simp [roleCode] at h'
          have := roleSide_code_le r
          have : RoleSide.ofCode (b.toNat % 16) = some r := (roleSide_ofCode _ _).2 (by omega)
          rw [this] at hr'; cases hr'

/-- The characters of a word are gathered up to the next space (R193). -/
theorem splitWords_word (w rest cur : List Nat) (hw : 32 ∉ w) :
   splitWords cur (w ++ rest) = splitWords (cur ++ w) rest := by
  induction w generalizing cur with
  | nil => simp
  | cons a w ih =>
    simp at hw
    rw [List.cons_append, splitWords, if_neg (by omega), ih _ hw.2]; simp

/-- Leading spaces are ignored (R193). -/
theorem splitWords_spaces (n : Nat) (rest : List Nat) :
    splitWords [] (List.replicate n 32 ++ rest) = splitWords [] rest := by
  induction n with
  | zero => rfl
  | succ n ih => rw [List.replicate_succ, List.cons_append, splitWords]; simpa using ih

/-- A word of one digit 0-7 reads as the node (R193). -/
theorem readNode_eq_some (l : List Nat) (n : Node) : readNode l = some n ↔ l = [48 + n.val] := by
  unfold readNode
  split
  · rename_i d
    split
    · rename_i h; simp [Fin.ext_iff]; omega
    · rename_i h; simp; omega
  · rename_i h; simp; rintro rfl; exact h _ rfl

/-- A word of one or two digits, 0-31, reads as the index (R193). -/
theorem readIndex_eq_some (l : List Nat) (i : Fin 32) : readIndex l = some i ↔
   (i.val < 10 ∧ l = [48 + i.val]) ∨ l = [48 + i.val / 10, 48 + i.val % 10] := by
  unfold readIndex
  split
  · split
    · rename_i h; simp [Fin.ext_iff]; omega
    · rename_i h; simp; omega
  · split
    · rename_i h; simp [Fin.ext_iff]; omega
    · rename_i h; simp; have := i.isLt; omega
  · rename_i h1 h2; simp; constructor
    · rintro _ rfl; exact h1 _ rfl
    · rintro rfl; exact h2 _ _ rfl

/-- One more character enters the line buffer (R192). -/
theorem gather_append (b : LineBuf) (l : List RxChar) (c : RxChar) :
    b.gather (l ++ [c]) = (b.gather l).receive c := by
  simp [LineBuf.gather]

end Sys2Proof.Laws
end

