-- ==== Sys2Proof/Laws/Shared.lean ====
section
/-! SUPPORT. What each operation the meanings share can do, said once: processing a frame, removing a record, verdicts,
channel commands, records of the log, arming, switching and ending a run. -/

namespace Sys2Proof.Laws

open Sys2Proof.Machine

/-! ## Processing -/

/-- A head of the command's kind is removed and handed over (R17). -/
theorem process_head {s : State} {k : Kind} {n : Node} {p : List Byte} {m : BitVec 8} (h : s.headIs k n p m)
    (f : RxRec → State → State) :
    s.process k f = f { kind := k, sender := n, payload := p, noted := m } s.popped := by
  unfold State.headIs at h
  unfold State.process State.popped
  cases hr : s.link.rx with
  | nil => rw [hr] at h; cases h
  | cons r rest =>
    rw [hr] at h
    simp only [List.head?_cons, Option.some.injEq] at h
    subst h
    simp

/-- A head of another kind, or no head, is left to its own command. -/
theorem process_other {s : State} {k : Kind} (h : ∀ r, s.link.rx.head? = some r → r.kind ≠ k)
    (f : RxRec → State → State) : s.process k f = s := by
  unfold State.process
  cases hr : s.link.rx with
  | nil => rfl
  | cons r rest => exact if_neg (h r (by rw [hr]; rfl))

theorem readHaltPayload_haltPayload (x : StopSource) : readHaltPayload (haltPayload x) = some x := by
  cases x <;> rfl

/-! ## Readings of the roster -/

/-- Every node number is in the list. -/
theorem mem_allNodes (n : Node) : n ∈ allNodes := by revert n; decide

/-- The first node number with a property is the lowest. -/
theorem find_allNodes (b : Node → Bool) (n : Node) :
    allNodes.find? b = some n ↔ b n = true ∧ ∀ k, k < n → b k = false := by
  rw [List.find?_eq_some_iff_append]
  constructor
  · rintro ⟨h, as, bs, e, hb⟩
    refine ⟨h, fun k hk => ?_⟩
    have hs : allNodes.Pairwise (· < ·) := by decide
    have hk' := mem_allNodes k
    rw [e] at hs hk'
    have hp := List.pairwise_append.mp hs
    rcases List.mem_append.mp hk' with hm | hm
    · simpa using hb k hm
    · rcases List.mem_cons.mp hm with rfl | hm
      · exact absurd hk (lt_irrefl _)
      · have := (List.pairwise_cons.mp hp.2.1).1 k hm
        exact absurd hk (not_lt.mpr (le_of_lt this))
  · rintro ⟨h, hb⟩
    have hn := mem_allNodes n
    obtain ⟨as, bs, e⟩ := List.append_of_mem hn
    refine ⟨h, as, bs, e, fun a ha => ?_⟩
    have hs : allNodes.Pairwise (· < ·) := by decide
    rw [e] at hs
    have := (List.pairwise_append.mp hs).2.2 a ha n (List.mem_cons_self ..)
    simp [hb a this]
/-- The MEMBER entry that holds a role (R80): the lowest, where there are two. -/
theorem memberOf_iff (s : State) (r : Role) (n : Node) :
    let holds (k : Node) := (s.entry k).state = .member ∧ (s.entry k).role.map RoleSide.role = some r
    s.memberOf r = some n ↔ holds n ∧ ∀ k, k < n → ¬holds k := by
  intro holds
  unfold State.memberOf State.members
  rw [List.find?_filter, find_allNodes]
  simp only [decide_eq_true_eq, decide_eq_false_iff_not, beq_iff_eq, holds]

/-! ## Records and verdicts -/

/-- A verdict changes nothing that the engines' moves cannot change. -/
theorem takeVerdict_follows (s : State) (v : Verdict) : Follows s (s.takeVerdict v) := (Follows.refl s).takeVerdict v

/-- The replica after a record is removed (R58): the list without it, evaluated, or the list as it was. -/
theorem removeRecord_table (s : State) (n : Node) :
    (s.removeRecord n).table =
      { s.table with claims :=
          if hasClaim s.table.claims n = true then evalGrants (removeClaim s.table.claims n) else s.table.claims } := by
  unfold State.removeRecord
  split
  · rfl
  · rfl

/-- Removing a record changes the replica alone. -/
theorem removeRecord_eq (s : State) (n : Node) : s.removeRecord n = { s with table := (s.removeRecord n).table } := by
  unfold State.removeRecord
  split
  · rfl
  · rfl

/-- A peer's record removed: GRANTED for the node's own run engine where the evaluation grants its own record (R64). -/
theorem removeFor_peer {s : State} {n : Node} (h : n ≠ s.own) (v : Verdict) :
    let u : State := { s with table := (s.removeRecord n).table }
    s.removeFor n v = if s.ownGranted = false ∧ u.ownGranted = true then u.takeVerdict .granted else u := by
  intro u
  unfold State.removeFor
  rw [if_neg h, removeRecord_eq s n]
  change (if (!s.ownGranted && u.ownGranted) = true then u.takeVerdict .granted else u) = _
  cases s.ownGranted <;> cases u.ownGranted <;> rfl

/-- The node's own record removed: the verdict given, where there was one (R65). -/
theorem removeFor_own (s : State) (v : Verdict) :
    let u : State := { s with table := (s.removeRecord s.own).table }
    s.removeFor s.own v = if hasClaim s.table.claims s.own = true then u.takeVerdict v else u := by
  intro u
  unfold State.removeFor
  rw [if_pos rfl, removeRecord_eq s s.own]

/-- Whatever the verdict on it, a removed record leaves the same replica and the same member unit. -/
theorem removeFor_replica (s : State) (n : Node) (v : Verdict) :
    (s.removeFor n v).table = (s.removeRecord n).table ∧ (s.removeFor n v).member = s.member := by
  have hm : (s.removeRecord n).member = s.member := by unfold State.removeRecord; split <;> rfl
  have hv : ∀ w, ((s.removeRecord n).takeVerdict w).table = (s.removeRecord n).table ∧
      ((s.removeRecord n).takeVerdict w).member = s.member := by
    intro w
    have := outer_fields (takeVerdict_outer (s.removeRecord n) w)
    exact ⟨this.2.2.2.1, this.2.2.1.trans hm⟩
  unfold State.removeFor
  dsimp only
  split
  · split
    · exact hv _
    · exact ⟨rfl, hm⟩
  · split
    · exact hv _
    · exact ⟨rfl, hm⟩

/-! ## Channels -/

/-- A command changes its own channel alone. -/
theorem command_get (s : State) (c x : Chan) (cmd : ChanCmd) :
    (s.command c cmd).chans.get x = if x = c then (s.chans.get x).after cmd else s.chans.get x := by
  simp only [State.command, set_get]
  split
  · rename_i h; rw [h]
  · rfl

/-- No command but DRIVE makes a channel drive (R142, R148). -/
theorem after_isDriving {c : ChanRec} {cmd : ChanCmd} (h : ((c.after cmd).state).isDriving = true) :
    (∃ d, cmd = .drive d ∧ (c.state = .opened ∨ c.state = .holding ∨ c.state = .driving d)) ∨
      (c.state.isDriving = true ∧ c.after cmd = c) := by
  obtain ⟨st, b, t⟩ := c
  cases cmd with
  | drive d =>
    cases st with
    | opened => exact .inl ⟨d, rfl, .inl rfl⟩
    | holding => exact .inl ⟨d, rfl, .inr (.inl rfl)⟩
    | driving x =>
      by_cases e : d = x
      · subst e; exact .inl ⟨d, rfl, .inr (.inr rfl)⟩
      · refine .inr ⟨rfl, ?_⟩; simp [ChanRec.after, ChanRec.command, e]
    | _ => simp [ChanRec.after, ChanRec.command, ChanState.isDriving] at h
  | _ =>
    cases st <;> simp_all [ChanRec.after, ChanRec.command, ChanState.isDriving, ChanRec.enter]

/-- HOLD to the channels that drive leaves the others (R115, R118). -/
theorem holdDriving_get (s : State) (x : Chan) : s.holdDriving.chans.get x =
    if (s.chans.get x).state.isDriving = true then { state := .holding, held := false, settle := none }
    else s.chans.get x := by
  simp only [State.holdDriving, each_get]
  cases hx : (s.chans.get x).state <;> simp [ChanState.isDriving, ChanRec.after, ChanRec.command, ChanRec.enter, hx]

/-- RELIEVE to the channels of a list that `p` does not spare changes those channels, and nothing else of the node. -/
theorem foldl_relieve (l : List Chan) (p : Chan → Bool) (s : State) :
    ∃ u, l.foldl (fun t c => if p c then t else t.command c .relieve) s = { s with chans := u } ∧
      (l.Nodup → ∀ x, u.get x = if x ∈ l ∧ p x = false then (s.chans.get x).after .relieve else s.chans.get x) := by
  induction l generalizing s with
  | nil => exact ⟨s.chans, rfl, fun _ x => by simp⟩
  | cons c l ih =>
    rw [List.foldl_cons]
    cases hp : p c with
    | true =>
      obtain ⟨u, hu, hx⟩ := ih s
      refine ⟨u, by simpa using hu, fun hn x => ?_⟩
      rw [hx (List.nodup_cons.mp hn).2]
      by_cases he : x = c <;> simp_all
    | false =>
      obtain ⟨u, hu, hx⟩ := ih (s.command c .relieve)
      refine ⟨u, by simpa using hu, fun hn x => ?_⟩
      rw [hx (List.nodup_cons.mp hn).2, command_get]
      have hc := (List.nodup_cons.mp hn).1
      by_cases he : x = c
      · subst he; simp [hc, hp]
      · simp [he]

/-- A switch relieves every channel that no step of the manoeuvre names, and changes nothing else (R119). -/
theorem relieveUnnamed_spec (s : State) (m : Manoeuvre) :
    ∃ u, s.relieveUnnamed m = { s with chans := u } ∧ ∀ x, u.get x =
      if ∃ d ∈ m.steps s.straps.side, d.chan = x then s.chans.get x else (s.chans.get x).after .relieve := by
  obtain ⟨u, hu, hx⟩ := foldl_relieve allChans (List.contains ((m.steps s.straps.side).map StepDef.chan)) s
  refine ⟨u, hu, fun x => ?_⟩
  rw [hx (by decide)]
  have hm : x ∈ allChans := by cases x <;> decide
  by_cases hd : ∃ d ∈ m.steps s.straps.side, d.chan = x
  · rw [if_pos hd, if_neg (by simpa [hm] using hd)]
  · rw [if_neg hd, if_pos (by simpa [hm] using hd)]

/-- The fence's commands to the channels of a list. -/
theorem foldl_relieveOthers (l : List Chan) (c : Chan) (s : State) :
    ∃ u, l.foldl (fun t x => if x = c ∨ (t.chans.get x).state.settled = true then t else t.command x .relieve) s =
        { s with chans := u } ∧
      (l.Nodup → ∀ y, u.get y =
        if y ∈ l ∧ y ≠ c ∧ (s.chans.get y).state.letDown = false then
          { state := .relieving, held := false, settle := some 120 }
        else s.chans.get y) := by
  induction l generalizing s with
  | nil => exact ⟨s.chans, rfl, fun _ x => by simp⟩
  | cons x l ih =>
    rw [List.foldl_cons]
    by_cases hp : x = c ∨ (s.chans.get x).state.settled = true
    · obtain ⟨u, hu, hx⟩ := ih s
      refine ⟨u, by rw [if_pos hp]; exact hu, fun hn y => ?_⟩
      rw [hx (List.nodup_cons.mp hn).2]
      by_cases hy : y = x
      · subst hy
        rcases hp with rfl | hp
        · simp
        · have : (s.chans.get y).state.letDown = true := by
            revert hp; cases (s.chans.get y).state <;> simp [ChanState.settled, ChanState.letDown]
          simp [this]
      · simp [hy]
    · obtain ⟨u, hu, hx⟩ := ih (s.command x .relieve)
      refine ⟨u, by rw [if_neg hp]; exact hu, fun hn y => ?_⟩
      rw [hx (List.nodup_cons.mp hn).2, command_get]
      by_cases hy : y = x
      · subst hy
        have hc := (List.nodup_cons.mp hn).1
        simp only [not_or] at hp
        simp only [hc, hp.1, false_and, if_false, if_true, List.mem_cons, true_or, ne_eq, not_false_eq_true, true_and]
        generalize s.chans.get y = z at hp ⊢
        obtain ⟨st, b, t⟩ := z
        cases st <;> simp_all [ChanState.settled, ChanState.letDown, ChanRec.after, ChanRec.command, ChanRec.enter, relievingMs]
      · simp [hy]

/-- The fence relieves every other channel that is not let down, and changes nothing else (R127). -/
theorem relieveOthers_spec (s : State) (c : Chan) :
    ∃ u, s.relieveOthers c = { s with chans := u } ∧ ∀ y, u.get y =
      if y ≠ c ∧ (s.chans.get y).state.letDown = false then
        { state := .relieving, held := false, settle := some 120 }
      else s.chans.get y := by
  obtain ⟨u, hu, hx⟩ := foldl_relieveOthers allChans c s
  refine ⟨u, hu, fun y => ?_⟩
  rw [hx (by decide)]
  have hy : y ∈ allChans := by cases y <;> decide
  simp [hy]

/-- The node is settled exactly if each channel is CLOSED, RESTING or FAULTED (R113, assumption 27). -/
theorem settled_iff (s : State) : s.settled = true ↔
    ∀ x, (s.chans.get x).state = .closed ∨ (s.chans.get x).state = .resting ∨ (s.chans.get x).state = .faulted := by
  have hs : ∀ st : ChanState, st.settled = true ↔ st = .closed ∨ st = .resting ∨ st = .faulted := by
    intro st; cases st <;> simp [ChanState.settled]
  simp only [State.settled, List.all_eq_true, hs]
  exact ⟨fun h x => h x (by cases x <;> decide), fun h x _ => h x⟩

/-- An own frame is outstanding exactly if it is pending, or taken and not yet processed (R104, assumption 31). -/
theorem outstanding_iff (s : State) (k : Kind) : s.outstanding k = true ↔
    (∃ e ∈ s.link.tx, e.frame.kind = k) ∨ ∃ x ∈ s.link.rx, x.kind = k ∧ x.sender = s.own := by
  simp [State.outstanding]

/-- A MEMBER with no own CLAIM pending or unprocessed queues one behind what is pending (R14). -/
theorem queue_claim {s : State} (h : s.outstanding .claim = false) (hm : s.member.mstate = .member) (set : ResSet)
    (units : Nat) (m : Manoeuvre) :
    s.queue (.claim set units m) =
      { s with link := { s.link with
        tx := s.link.tx ++ [{ frame := .claim set units m, attempts := 0, withdrawn := false }] } } := by
  have none_pending : (s.link.tx.any fun e => e.isFor .claim none) = false := by
    rw [List.any_eq_false]
    intro e he
    simp only [State.outstanding, Bool.or_eq_false_iff, List.any_eq_false] at h
    have := h.1 e he
    simp only [TxEntry.isFor] at this ⊢
    simp_all
  unfold State.queue
  rw [if_pos (by simp [State.mayQueue, hm])]
  simp only [queueIn, TxFrame.kind, TxFrame.subject, none_pending, Bool.false_eq_true, if_false]

/-! ## Records of the log -/

/-- A record closed with an outcome leaves none IN-PROGRESS (R189). -/
theorem closeRec_openCount (s : State) (o : RunOutcome) (c : Option Cause) (h : o ≠ .inProgress) :
    (s.closeRec o c).log.openCount = 0 := by
  simp only [LogUnit.openCount, State.closeRec, State.changeOpen, List.length_eq_zero_iff, List.filter_eq_nil_iff,
    List.mem_map]
  rintro x ⟨y, _, rfl⟩
  split
  · simpa using h
  · rename_i hn; simpa using hn

/-! ## Arming and switching -/

/-- A step that enters ARMING (R125): the step engine is new but for the retries, the log has the step's record if one
is begun, and nothing else changes. -/
theorem arm_spec (s : State) (n : Nat) (a b : Bool) :
    (s.arm n a b).runs = s.runs ∧ (s.arm n a b).chans = s.chans ∧ (s.arm n a b).link = s.link ∧
      (s.arm n a b).steps = { StepUnit.none with
        cur := some { state := .arming, gate := .check, testSkip := a, limit := none, noRecord := false, result := none }
        retries := n } ∧
      (s.arm n a b).log = if b = true then (s.openRec n).log else s.log := by
  unfold State.arm
  dsimp only
  split
  · unfold State.openRec; dsimp only [setSteps_runs]; split <;> exact ⟨rfl, rfl, rfl, rfl, rfl⟩
  · exact ⟨rfl, rfl, rfl, rfl, rfl⟩

/-- A switch keeps the claim exactly for the same set and no more units (R87, R118). -/
theorem keepsClaim_iff (side : Side) (old new : Manoeuvre) : keepsClaim side old new = true ↔
    ∃ set u v, old.claim side = some (set, u) ∧ new.claim side = some (set, v) ∧ v ≤ u := by
  unfold keepsClaim
  split
  · rename_i x u y v h1 h2
    simp only [h1, h2, Option.some.injEq, Prod.mk.injEq, Bool.and_eq_true, beq_iff_eq, decide_eq_true_eq]
    refine ⟨fun h => ⟨x, u, v, ⟨rfl, rfl⟩, ⟨h.1.symm, rfl⟩, h.2⟩, ?_⟩
    rintro ⟨_, _, _, ⟨rfl, rfl⟩, ⟨rfl, rfl⟩, h⟩
    exact ⟨rfl, h⟩
  · rename_i h
    simp only [Bool.false_eq_true, false_iff]
    rintro ⟨s, u, v, h1, h2, _⟩
    exact h s u s v h1 h2

/-! ## The walked step -/

/-- A walked step is the current step of a run that is RUNNING. -/
theorem walked_spec {s : State} {r : Run} {c : CurStep} {d : StepDef} (h : s.walked = some (r, c, d)) :
    s.runs.run = some r ∧ s.steps.cur = some c ∧ r.phase = .running ∧ s.stepOf r.top = some d := by
  unfold State.walked at h
  split at h
  · rename_i r' c' hr hc
    split at h
    · rename_i hp
      split at h
      · rename_i d' hd
        simp only [Option.some.injEq, Prod.mk.injEq] at h
        obtain ⟨rfl, rfl, rfl⟩ := h
        exact ⟨hr, hc, hp, hd⟩
      · cases h
    · cases h
  · cases h

/-- The move of a walked step that has not ended (R126 to R136, R139, R144). -/
theorem engineMove_of_walked {s : State} {r : Run} {c : CurStep} {d : StepDef} (h : s.walked = some (r, c, d))
    (hn : c.result = none) : engineMove s =
      if (s.chans.get d.chan).state = .faulted then some (s.failStep c d .driverFault false)
      else if c.state.holdsChannel = true ∧ (s.chans.get d.chan).state = .relieving then
        some (s.failStep c d .channelRefused true)
      else s.plainMove r c d := by
  obtain ⟨hr, hc, hp, hd⟩ := walked_spec h
  have hm : runMove s = none := by simp only [runMove, hr, hp]
  unfold engineMove stepMove
  rw [hr, hc]
  simp only [hp, hn, hd, if_true, hm]
  split
  · rename_i h; exact h.symm
  · rename_i h; exact h.symm

/-- The end of a step holds by one of its end conditions (R90). -/
theorem endHolds_iff (s : State) (d : StepDef) (n : Nat) : s.endHolds d n = true ↔ ∃ e ∈ d.ends, match e with
      | .cond q v => s.cond q = v
      | .driveTime ms => ms ≤ n
      | .height h => ∃ n, s.lines.height = some n ∧
        let mark := match h with | .floor => 0 | .bed => s.fitRow.bed
        if d.dir = .down then n ≤ mark else mark ≤ n := by
  simp only [State.endHolds, List.any_eq_true]
  apply exists_congr; intro e
  apply and_congr_right; intro _
  cases e with
  | cond q v => simp [State.endCond]
  | driveTime ms => simp [State.endCond]
  | height h =>
    simp only [State.endCond]
    cases hh : s.lines.height with
    | none => simp
    | some n =>
      by_cases hd : d.dir = .down <;> simp [hd] <;> cases h <;> simp

/-! ## Ending a run -/

/-- No step engine moves in a run that does not run. -/
theorem engineMove_of_not_running {s : State} {r : Run} (h : s.runs.run = some r) (hp : r.phase ≠ .running) :
    engineMove s = runMove s := by
  unfold engineMove stepMove
  rw [h]
  cases s.steps.cur <;> simp [hp]

/-- A run that enters ENDING (R113): the outcome is fixed, no step is walked, and every channel is let down. -/
theorem enterEnding_spec {s : State} {r : Run} (h : s.runs.run = some r) (o : RunOutcome) (c : Option Cause) :
    ((s.enterEnding o c).runs.run = some { r with
        phase := .ending, ending := some (o, c), owesYield := false
        mode := if o = .refused then .none else s.endingMode r.mode }) ∧
      (s.enterEnding o c).runs.claimWait = none ∧ (s.enterEnding o c).steps = StepUnit.none ∧
      ∀ x, (s.enterEnding o c).chans.get x = (s.chans.get x).after .relieve := by
  unfold State.enterEnding
  rw [h]
  exact ⟨rfl, rfl, rfl, fun x => each_get _ _ _⟩

/-- The stack ended at once (R112) leaves no run, and no channel driving. -/
theorem endStack_spec (s : State) (o : RunOutcome) :
    (s.endStack o).runs.run = none ∧ (s.endStack o).steps.cur = none ∧
      ∀ x, ((s.endStack o).chans.get x).state.letDown = true :=
  ⟨by rw [(endStack_runs s o).1], by rw [(endStack_runs s o).2]; rfl, fun x => by
    rw [endStack_chans]; exact (after_relieve _).1⟩

end Sys2Proof.Laws
end

