-- ==== Sys2Proof/Tests/Slice0.lean ====
section
/-! SUPPORT. The model's own tests: ill-formed commands that the check refuses, words of the spec (a frame's bits, the
lines of the service port), a few single steps, and for every obligation with hypotheses a state and operands that meet
them. -/

namespace Sys2Proof.Tests

open Sys2Proof.Machine

/-! ## Well-formedness: one ill-formed command per check -/

/-- The characters of a line, with good stop bits. -/
def typed (l : List Char) : List RxChar := l.map fun c => { code := BitVec.ofNat 8 c.toNat, stopLow := false }

def statusLine : List RxChar := typed ['S', 'T', 'A', 'T', 'U', 'S']
def rosterLine : List RxChar := typed ['R', 'O', 'S', 'T', 'E', 'R']
def tableLine : List RxChar := typed ['T', 'A', 'B', 'L', 'E']
def logLine : List RxChar := typed ['L', 'O', 'G']
def peerLine : List RxChar := typed ['P', 'E', 'E', 'R', ' ', '1', ' ', 'S', 'T', 'A', 'T', 'U', 'S']
def peerLogLine : List RxChar := typed ['P', 'E', 'E', 'R', ' ', '1', ' ', 'L', 'O', 'G', ' ', '3', '1']

theorem test_wf_lines : (Instr.status statusLine).wf = true ∧ (Instr.roster rosterLine).wf = true ∧
    (Instr.table tableLine).wf = true ∧ (Instr.log logLine).wf = true ∧ (Instr.peerStatus peerLine).wf = true ∧
    (Instr.peerLog peerLogLine).wf = true ∧ (Instr.error (typed ['x'])).wf = true := by decide

theorem test_wf_wrong_lines : (Instr.status rosterLine).wf = false ∧ (Instr.roster statusLine).wf = false ∧
    (Instr.table logLine).wf = false ∧ (Instr.log tableLine).wf = false ∧ (Instr.peerStatus peerLogLine).wf = false ∧
    (Instr.peerLog peerLine).wf = false ∧ (Instr.error statusLine).wf = false := by decide

theorem test_wf_carriage_return :
    (Instr.status (statusLine ++ [{ code := 13, stopLow := false }])).wf = false := by decide

theorem test_wf_outputs : (Instr.channelDriverFault 8 .openLoad).wf = true ∧
    (Instr.channelDriverFault 9 .openLoad).wf = false ∧ (Instr.lampFault 5 .openLoad).wf = true ∧
    (Instr.lampFault 6 .openLoad).wf = false := by decide

/-- A frame of a kind as a receiver collects it, with the right check. -/
def frameOf (k : Kind) (n : Node) (p : List Byte) : LineFrame :=
  { cls := ⟨k.cls, by cases k <;> decide⟩, sender := n, payload := p, check := crc15 (checkedBits k.cls n p)
    closing := true }

theorem test_wf_length : (Instr.vetoSlot { frameOf .halt 0 [] with payload := List.replicate 63 0 } true).wf = true ∧
    (Instr.vetoSlot { frameOf .halt 0 [] with payload := List.replicate 64 0 } true).wf = false := by decide

/-! ## Words of the spec -/

/-- A CLEAR from node 5 (identifier 8*1+5 = 13, length 0), up to its CRC (R2, R3). -/
theorem test_frame_bits : (frameBits 1 5 []).take 14 =
      [false, false, false, false, true, true, false, true, false, false, false, false, false, false] ∧
    (frameBits 1 5 []).length = 30 := by decide

/-- The generator's own bits divide to zero (R3). -/
theorem test_crc_of_generator : crc15
    [true, false, true, false, true, false, true, false, true, false, true, false, true, true, false, true] = 0 := by
  decide +kernel

/-- Spaces around and between the words of a line are ignored, and 33 characters are one too many (R192, R193). -/
theorem test_line_reading :
    (LineBuf.empty.gather (typed [' ', 'P', 'E', 'E', 'R', ' ', ' ', '7', ' ', 'L', 'O', 'G', ' ', '0', ' '])).read =
      .peerLog 7 0 ∧
    (LineBuf.empty.gather (List.replicate 32 { code := 32, stopLow := false })).read = .blank ∧
    (LineBuf.empty.gather (List.replicate 33 { code := 32, stopLow := false })).read = .wrong := by decide

theorem test_answer_text : lineText (AnswerLine.supply 12).words = "SUPPLY 12\r\n" := by decide

/-! ## States -/

/-- A MEMBER of a role at node 0 with a CAB at node 1, a BEACON at node 2 and a LIFT at node 3, all HEARD and AGREE. -/
def member (role : Role) : State :=
  let peer (r : RoleSide) : Entry :=
    { state := .member, role := some r, last := none, heard := true, agree := true, fresh := true, silence := some 150 }
  let own : Entry :=
    { state := .member, role := some (Straps.roleSide { node := 0, role := role, side := .kerb, fit := 0 }), last := none
      heard := false, agree := true, fresh := false, silence := none }
  { State.reset with
    straps := { node := 0, role := role, side := .kerb, fit := 0 }
    member := { State.reset.member with
      mstate := .member, bodyFit := some 0
      roster := #v[own, peer .cab, peer .beacon, peer .lift, Entry.blank, Entry.blank, Entry.blank, Entry.blank] } }

/-- A node in another membership state. -/
def inState (m : MState) (s : State) : State := { s with member := { s.member with mstate := m } }

/-- A node with one frame in its receive queue. -/
def heads (s : State) (k : Kind) (n : Node) (p : List Byte) : State :=
  { s with link := { s.link with rx := [{ kind := k, sender := n, payload := p, noted := 0 }] } }

/-- A node with one pending frame, and a use of the line. -/
def sends (s : State) (f : TxFrame) (attempts : Nat) (line : LineUse) : State :=
  { s with link := { s.link with
    tx := [{ frame := f, attempts := attempts, withdrawn := false }], line := line, footing := true } }

/-- A node with the halt latch set by node 1. -/
def latchedAt (count : Nat) (s : State) : State :=
  { s with table := { claims := [], halt := { latch := some 1, count := count } } }

/-- A record. -/
def claimOf (n : Node) (units : Nat) (st : ClaimState) : ClaimRec :=
  { claimant := n, set := { ResSet.empty with rear := true }, units := units, man := .lower, state := st }

/-- A node with a claim list. -/
def claims (s : State) (l : List ClaimRec) : State := s.setClaims l

/-- A node with a run of a manoeuvre in a phase. -/
def runs (s : State) (m : Manoeuvre) (phase : RunPhase) (mode : ClaimMode) : State :=
  { s with runs := { s.runs with
    claimWait := some 10000
    run := some
      { base := RunEntry.base m 1 .kerb 1, nests := [], phase := phase, nestCount := 0, leadServed := false, mode := mode
        claimTag := 0, runTag := none, ending := none, owesYield := false } } }

/-- A current step in a state, with every timer running. -/
def walks (s : State) (st : StepState) (limit : Option Nat) : State :=
  s.setSteps
    { cur := some
        { state := st, gate := .way, testSkip := false, limit := limit, noRecord := false, result := none }
      retries := 0, driveTime := 0, lead := some 1, recovery := some 1, priming := some 1, pause := some 1 }

/-- A LIFT node that walks the step of TILT-DOWN, its channel in a state. -/
def tilting (st : StepState) (c : ChanState) : State :=
  let s := walks (runs (member .lift) .tiltDown .running .held) st (some 3000)
  { s with chans := s.chans.set .tilt { state := c, held := false, settle := none } }

/-- A channel of a node in a state, with its settle timer. -/
def channel (s : State) (c : Chan) (st : ChanState) (held : Bool) : State :=
  { s with chans := s.chans.set c { state := st, held := held, settle := some 1 } }

/-- An input of a node that has changed, its filter timer running. -/
def changing (s : State) (i : Fin 16) (closed active : Bool) : State :=
  s.setInput i { closed := closed, active := active, timer := some 5 }

/-- An input of a node at rest. -/
def stands (s : State) (i : Fin 16) (active : Bool) : State :=
  s.setInput i { closed := active, active := active, timer := none }

/-- A receiver that has vetoed `n` frames in a row, with `q` frames in its queue. -/
def receiver (m : MState) (n q : Nat) : State :=
  { inState m (member .lift) with link := { State.reset.link with
    vetoRun := n, footing := true, rx := List.replicate q ⟨.posture, 1, [], 0⟩ } }

/-- A log record of a kind. -/
def record (k : RecKind) (o : RunOutcome) : LogRec :=
  { kind := k, run := 1, depth := 0, man := none, idx := none, outcome := o, cause := none, retries := 0, startTag := 0
    endTag := none, height := none }

/-! ## Single steps -/

/-- A HALT of node 1 reaches a DRIVING LIFT node: the run ends and the channel is let down. -/
theorem test_halt_stops_a_drive :
    (match exec .halt (heads (tilting .driving (.driving .down)) .halt 1 [0]) with
      | .next t => t.runs.run == none && t.chans.tilt.state == .relieving && t.latched
      | _ => false) = true := by decide +kernel

/-- A grant starts a run, whose unpowered first step waits in ARMING while the CAB shows nothing (R126). -/
theorem test_grant_starts_a_run :
    (match exec .claim (heads (runs (member .lift) .lower .claiming .queued) .claim 0 [2, 2, 2]) with
      | .next t => t.ownGranted && t.motionLaws && (t.steps.cur.map CurStep.state) == some .arming
      | _ => false) = true := by decide +kernel

/-- The drive-time end of TILT-DOWN completes its run: the channel is relieved and the run waits for it in ENDING. -/
theorem test_drive_time_end :
    (match exec .driveTimeEnd (tilting .driving (.driving .down)) with
      | .next t => (t.runs.run.map fun r => (r.phase, r.ending)) == some (RunPhase.ending, some (RunOutcome.complete, none))
      | _ => false) = true := by decide +kernel

/-- On an empty queue drive time counts one millisecond (assumption 1). -/
theorem test_tick_counts :
    (tilting .driving (.driving .down)).countDrive.steps.driveTime = 1 := by decide

/-- The pump's running time stands just below the duty limit, 90 s in fitting row 0, until the limit's own command (R167). -/
theorem test_duty_count_stands_below_its_limit :
    let s (ms : Nat) : State := { member .lift with pump := { (member .lift).pump with on := true, runTime := ms } }
    (s 89998).countPump.pump.runTime = 89999 ∧ (s 89999).countPump.pump.runTime = 89999 := by decide

/-- A change while an own POSTURE is on the line sets the change mark, so that the spacing timer reports it (R82). -/
theorem test_change_under_an_own_posture_is_marked :
    let s := sends (member .lift) .posture 0 (.sending .posture none [])
    (State.noteChange s (s.setRun
      { base := RunEntry.base .lower 1 .kerb 0, nests := [], phase := .claiming, nestCount := 0, leadServed := false
        mode := .queued, claimTag := 0, runTag := none, ending := none, owesYield := false })).post.changed = true := by
  decide +kernel

/-- A run stopped in CLAIMING while a channel still rests on its way down stays QUEUED as long as its CLAIM is pending
(R98, assumption 37). -/
theorem test_ending_keeps_the_claim_mode :
    let s := sends (runs (member .lift) .lower .claiming .queued) (.claim { ResSet.empty with rear := true } 2 .lower) 0 .quiet
    (s.enterEnding .stopped none).runs.run.map Run.mode = some .queued ∧
      ((runs (member .lift) .lower .claiming .queued).enterEnding .stopped none).runs.run.map Run.mode = some .none := by
  decide +kernel

/-- The first grant takes zone and supply, and a younger record with units waits behind an older one (R55). -/
theorem test_grants :
    (evalGrants [claimOf 1 2 .waiting, claimOf 2 2 .waiting]).map ClaimRec.state = [.granted, .waiting] ∧
    supplyInUse (evalGrants [claimOf 1 12 .waiting]) = 12 ∧ supplyInUse (evalGrants [claimOf 1 13 .waiting]) = 0 := by
  decide

/-- A STATUS line is answered with ten lines (R194). -/
theorem test_status_answer :
    (match exec (.status statusLine) State.reset with
      | .next t => (match t.port.answer with | .sending l => l.length | _ => 0)
      | _ => 0) = 10 := by decide

theorem test_no_word_spells_a_command : State.reset.withFetchWord 16 0 = State.reset := by decide

/-! ## Hypotheses that are met -/

theorem test_met_StepRunsTheFrontCommand :
    (State.reset.withPending [.idleGap, .halt]).pending = .idleGap :: [.halt] := rfl

theorem test_met_EmptyQueueCountsOneMillisecond :
    (tilting .driving (.driving .down)).pending = [] ∧
    ∃ r c d, (tilting .driving (.driving .down)).walked = some (r, c, d) ∧
      (tilting .driving (.driving .down)).driveCounts c d = true := ⟨rfl, _, _, _, rfl, by decide⟩

theorem test_met_EveryCommandGoesOn :
    (∀ p, Instr.idleGap ≠ .powerOnReset p) ∧ ∀ p, Instr.idleGap ≠ .externalReset p := ⟨nofun, nofun⟩

theorem test_met_LocalCommandsLeaveTheBodyAlone :
    ∃ t, exec .timeTagTick (member .lift) = .next t ∧ exec .idleTimer (member .lift) = .next (member .lift) :=
  ⟨_, rfl, rfl⟩

theorem test_met_LineUnitIsChangedByItsOwnEvents :
    (∃ t, exec .halt (heads (member .lift) .halt 1 [0]) = .next t) ∧
    ∃ t, exec .timeTagTick (member .lift) = .next t ∧ t.member.mstate = (member .lift).member.mstate ∧
      ((member .lift).link.line.own = true → (member .lift).mayQueue = true) := by
  exact ⟨⟨_, rfl⟩, _, rfl, rfl, nofun⟩

theorem test_met_LoopTestDecidesListenOrUnfit :
    State.reset.member.mstate = .start ∧
    State.reset.loopPasses (frameBits 6 0 ([byte 0, byte 0] ++ bytes24 0)) true = true ∧
    State.reset.loopPasses (frameBits 6 0 ([byte 0, byte 0] ++ bytes24 0)) false = false ∧
    State.reset.loopPasses [] true = false := by decide +kernel

theorem test_met_AttemptSendsTheHeadFrame :
    (let s : State := { member .lift with link := { (member .lift).link with
      tx := [⟨.posture, 0, false⟩, ⟨.halt .panel, 7, false⟩], rx := List.replicate 3 ⟨.posture, 1, [], 0⟩ } }
    s.link.tx = [⟨.posture, 0, false⟩] ++ ⟨.halt .panel, 7, false⟩ :: [] ∧
      (∀ x ∈ [(⟨.posture, 0, false⟩ : TxEntry)], (TxFrame.halt .panel).kind.cls < x.frame.kind.cls) ∧
      s.member.mstate = .member ∧ s.link.driverCut = false ∧ s.link.line = .quiet ∧ s.link.rx.length < 4) ∧
    (sends (inState .joinWait (member .lift)) .snapshot 0 .broken).link.rx = [] ∧
    (let s := sends (heads (member .lift) .halt 1 [0]) .snapshot 0 .quiet
    s.link.tx = [] ++ ⟨.snapshot, 0, false⟩ :: [] ∧ s.link.rx ≠ []) ∧
    (sends (member .lift) .yield 0 (.sending .yield none [])).link.line = .sending .yield none [] ∧
    State.reset.member.mstate ≠ .joinWait ∧ State.reset.member.mstate ≠ .member ∧
    4 ≤ (List.replicate 4 (⟨.posture, 1, [], 0⟩ : RxRec)).length := by decide

theorem test_met_UncountedEndsFreeTheLine :
    (sends (member .lift) .yield 0 (.sending .yield none [])).link.line = .sending .yield none [] ∧
    (sends (member .lift) .yield 1 .broken).link.line = .broken ∧ (receiver .listen 0 0).member.mstate = .listen :=
  ⟨rfl, rfl, rfl⟩

theorem test_met_CountedAttemptsEndInIsolation :
    (let s := sends (member .lift) .yield 6 (.sending .yield none [])
    s.link.line = .sending .yield none [] ∧ ∀ e ∈ countAttempt s.link.tx .yield none, e.attempts < 8) ∧
    let s := sends (member .lift) .yield 7 (.sending .yield none [])
    ∃ e ∈ s.link.tx, e.frame.kind = .yield ∧ e.frame.subject = none ∧ e.attempts = 7 := by decide

theorem test_met_OwnFrameIsTaken :
    (sends (inState .joinWait (member .lift)) .join 0 (.sending .join none [])).link.line = .sending .join none [] ∧
    (sends (member .lift) .posture 0 (.sending .posture none [])).member.mstate = .member := ⟨rfl, rfl⟩

theorem test_met_ReceiverVetoesWhatItCannotTake :
    (receiver .member 14 4).link.line = .quiet ∧ (receiver .member 14 4).link.footing = true ∧
    (receiver .member 14 4).link.vetoRun < 15 ∧ 4 ≤ (receiver .member 14 4).link.rx.length ∧
    (receiver .listen 0 4).member.mstate = .listen ∧ 4 ≤ (receiver .listen 0 4).link.rx.length ∧
    (receiver .joinWait 15 0).link.vetoRun = 15 ∧ (receiver .joinWait 15 0).member.mstate = .joinWait ∧
    48 < (List.replicate 49 (0 : Byte)).length ∧ 9 < (10 : Fin 16).val ∧
    (0 : BitVec 15) ≠ crc15 (checkedBits 1 5 []) ∧ ({ frameOf .clear 5 [] with closing := false } : LineFrame).closing = false := by
  decide +kernel

theorem test_met_ReceiverTakesAFrame :
    (receiver .listen 15 3).link.line = .quiet ∧ (receiver .listen 15 3).link.footing = true ∧
    (receiver .listen 15 3).member.mstate = .listen ∧ (receiver .listen 15 3).link.rx.length < 4 ∧
    (List.replicate 48 (0 : Byte)).length ≤ 48 ∧ (7 : Node) ≠ (receiver .listen 15 3).own ∧
    (frameOf .reply 7 []).cls.val = Kind.reply.cls ∧ (frameOf .reply 7 []).closing = true := by decide

theorem test_met_TransmitGuardCutsTheDriverOff :
    (member .lift).member.mstate = .member ∧
    let s : State := { State.reset with link := { State.reset.link with driverCut := true } }
    s.link.driverCut = true ∧ ∃ t, exec .timeTagTick s = .next t := ⟨rfl, rfl, _, rfl⟩

theorem test_met_ProcessingRemovesTheHead :
    (∀ r, (member .lift).link.rx.head? = some r → r.kind ≠ .halt) ∧
    (heads (member .lift) .halt 1 [2]).link.rx.head? = some ⟨.halt, 1, [2], 0⟩ ∧ malformed .halt [2] = true ∧
    malformed .halt [1] = false ∧ (heads (inState .listen (member .lift)) .halt 1 [0]).member.mstate ≠ .member ∧
    (heads (inState .listen (member .lift)) .snapshot 1 []).link.rx.head? = some ⟨.snapshot, 1, [], 0⟩ ∧
    (inState .listen (member .lift)).member.mstate ≠ .joinWait ∧
    (heads (inState .joinWait (member .lift)) .snapshot 1 []).member.mstate = .joinWait ∧
    (∀ w, readSnapPayload [] = some w → w.subject ≠ (0 : Node)) ∧
    (inState .barred (member .lift)).member.mstate ≠ .listen :=
  ⟨nofun, rfl, by decide, by decide, by decide, rfl, by decide, rfl, nofun, by decide⟩

/-- HALT at a clear latch, at count 14, 15, with either source. -/
theorem test_met_HaltSetsTheLatch :
    (heads (member .cab) .halt 4 [0]).headIs .halt 4 (haltPayload .panel) 0 ∧
    (heads (latchedAt 14 (member .cab)) .halt 0 [1]).headIs .halt 0 (haltPayload .pendant) 0 ∧
    (heads (latchedAt 15 (member .cab)) .halt 0 [1]).table.halt.count = 15 ∧ (member .cab).member.mstate = .member ∧
    (member .cab).runs.run = none := ⟨rfl, rfl, rfl, rfl, rfl⟩

theorem test_met_HaltStopsTheNode :
    (heads (tilting .driving (.driving .down)) .halt 1 [0]).headIs .halt 1 (haltPayload .panel) 0 ∧
    (heads (tilting .driving (.driving .down)) .halt 1 [0]).member.mstate = .member ∧
    (∃ r, (tilting .driving (.driving .down)).runs.run = some r ∧ r.ending = none) ∧
    (member .lift).runs.run = none ∧ (stands (member .lift) 2 true).input 2 = true ∧
    (stands (stands (member .lift) 2 true) 8 true).input 8 = true ∧
    (member .lift).lines.held = .armed ∧ ((member .lift).setHeld (.held .up)).lines.held = .held .up :=
  ⟨rfl, rfl, ⟨_, rfl, rfl⟩, rfl, rfl, rfl, rfl, rfl⟩

/-- CLEAR from the originator, from the CAB while the originator is not MEMBER, and from another; with a stop held. -/
theorem test_met_ClearEndsTheHalt :
    (let s := heads (latchedAt 1 (member .lift)) .clear 1 []
    s.headIs .clear 1 [] 0 ∧ s.table.halt.latch = some 1 ∧ s.stopPressed = false) ∧
    (let s := heads { member .lift with table := { claims := [], halt := { latch := some 5, count := 1 } } } .clear 1 []
    s.headIs .clear 1 [] 0 ∧ (s.entry 1).role = some .cab ∧ (s.entry 5).state ≠ .member) ∧
    (heads (latchedAt 1 (member .lift)) .clear 2 []).headIs .clear 2 [] 0 ∧
    ((heads (latchedAt 1 (member .lift)) .clear 2 []).entry 2).role ≠ some .cab ∧
    (stands (latchedAt 1 (member .lift)) 9 true).stopPressed = true := by
  refine ⟨⟨rfl, rfl, by decide⟩, ⟨rfl, rfl, by decide⟩, rfl, by decide, by decide⟩

theorem test_met_EvictRemovesThePeer :
    (heads (member .lift) .evict 1 [0]).headIs .evict 1 [byte (0 : Node).val] 0 ∧ (member .lift).own = 0 ∧
    (heads (member .lift) .evict 1 [3]).headIs .evict 1 [byte (3 : Node).val] 0 ∧
    ((heads (member .lift) .evict 1 [3]).entry 3).state = .member ∧
    (heads (member .lift) .evict 1 [7]).headIs .evict 1 [byte (7 : Node).val] 0 ∧
    ((heads (member .lift) .evict 1 [7]).entry 7).state = .unknown ∧ (7 : Node) ≠ (member .lift).own ∧
    (member .lift).link.line.isSending .evict (some 3) = false ∧
    (claims (member .lift) [claimOf 3 2 .granted, claimOf 0 2 .waiting]).ownGranted = false ∧
    (claims (member .lift) (evalGrants [claimOf 0 2 .waiting])).ownGranted = true := by
  refine ⟨rfl, rfl, rfl, rfl, rfl, rfl, by decide, by decide, by decide, by decide⟩

/-- YIELD with no record, with the node's own, and with another's that lets the node's own be granted or not. -/
theorem test_met_YieldRemovesTheRecord :
    (heads (member .lift) .yield 1 []).headIs .yield 1 [] 0 ∧
    (∀ r ∈ (heads (member .lift) .yield 1 []).table.claims, r.claimant ≠ 1) ∧
    (let s := claims (member .lift) [claimOf 1 2 .granted, claimOf 0 2 .waiting]
    (∃ r ∈ s.table.claims, r.claimant = 1) ∧ s.ownGranted = false ∧
      (claims s (evalGrants (s.table.claims.filter fun r => r.claimant != 1))).ownGranted = true) ∧
    (claims (member .lift) [claimOf 0 2 .granted, claimOf 1 2 .waiting]).ownGranted = true ∧
    ∃ r ∈ (claims (member .lift) [claimOf 0 2 .granted]).table.claims, r.claimant = 0 := by
  refine ⟨rfl, nofun, by decide, by decide, by decide⟩

/-- CLAIM admitted at 12 units and set 15, and refused by each check. -/
theorem test_met_ClaimIsAdmittedOrRefused :
    (heads (member .lift) .claim 1 [15, 12, 2]).headIs .claim 1 (ClaimMsg.payload ⟨15, 12, .lower⟩) 0 ∧
    (member .lift).admission 1 ⟨15, 12, .lower⟩ = none ∧
    (latchedAt 1 (member .lift)).admission 1 ⟨15, 12, .lower⟩ = some .latched ∧
    (member .lift).admission 4 ⟨15, 12, .lower⟩ = some .notMember ∧
    (claims (member .lift) [claimOf 0 2 .granted]).admission 0 ⟨1, 0, .lower⟩ = some .hasRecord ∧
    (member .lift).admission 1 ⟨0, 12, .lower⟩ = some .badClaim ∧
    (member .lift).admission 1 ⟨16, 12, .lower⟩ = some .badClaim ∧
    (member .lift).admission 1 ⟨15, 13, .lower⟩ = some .badClaim := by
  refine ⟨rfl, by decide, by decide, by decide, by decide, by decide, by decide, by decide⟩

theorem test_met_GrantEvaluationFollowsItsFourConditions :
    [claimOf 1 2 .waiting, claimOf 2 2 .waiting] = [claimOf 1 2 .waiting] ++ claimOf 2 2 .waiting :: [] ∧
    evalGrants [claimOf 1 2 .waiting, claimOf 2 2 .waiting] =
      [claimOf 1 2 .granted] ++ claimOf 2 2 .waiting :: [] := by decide

theorem test_met_ClaimListOperationsKeepItsLaws :
    claimLaws [claimOf 1 12 .granted, claimOf 2 2 .waiting] = true ∧
    hasClaim [claimOf 1 12 .granted] (claimOf 2 2 .waiting).claimant = false := by decide

/-- The SNAPSHOT of a body whose only MEMBER is node 1, for node 0 in a state, or for another. -/
def snapOf (subject : Node) (st : EState) : SnapMsg :=
  { subject := subject, fit := 0, take := 0, halt := HaltState.off
    roster := #v[(st, some .lift), (.member, some .cab), (.unknown, none), (.unknown, none), (.unknown, none)
      , (.unknown, none), (.unknown, none), (.unknown, none)]
    claims := [] }

theorem test_met_SnapshotAdmitsItsSubject :
    (∀ st ∈ [EState.joining, .barred, .absent],
      readSnapPayload (snapOf 0 st).payload = some (snapOf 0 st) ∧ (snapOf 0 st).roster[(0 : Node)].1 = st) ∧
    readSnapPayload (snapOf 7 .member).payload = some (snapOf 7 .member) ∧ (snapOf 7 .member).subject ≠ (member .lift).own ∧
    (heads (inState .joinWait (member .lift)) .snapshot 1 []).member.mstate = .joinWait ∧
    (stands (member .lift) 9 true).stopPressed = true ∧ (snapOf 0 .joining).halt.latch = none ∧
    ((member .lift).setOwed 4 true).member.owed[(4 : Node)] = true ∧
    (∀ n : Fin 8, ((member .lift).setOwed 4 true).member.owed[n] = true → (4 : Node) ≤ n) ∧
    (member .lift).member.bodyFit = some 0 := by decide +kernel

theorem test_met_JoinFoundsTheBody :
    (let s := heads { State.reset with member := { State.reset.member with mstate := .joinWait } } .join 0 [0, 0, 0, 0, 0]
    s.headIs .join 0 (JoinMsg.payload ⟨.cab, 0, 0⟩) 0 ∧ s.own = 0 ∧ s.serial = 0) ∧
    (∀ k, (State.reset.entry k).state ≠ .member) ∧
    (heads (inState .listen (member .lift)) .join 7 [6, 7, 0, 0, 1]).headIs .join 7 (JoinMsg.payload ⟨.beacon, 7, 1⟩) 0 ∧
    ((inState .listen (member .lift)).entry 1).state = .member ∧ (stands State.reset 0 true).stopPressed = true := by
  refine ⟨⟨rfl, rfl, rfl⟩, by decide, rfl, rfl, by decide⟩

/-- A joiner admitted, one with the wrong fitting code, and one whose role is taken. -/
theorem test_met_JoinIsAdmittedOrBarred :
    (heads (member .lift) .join 4 [5, 0, 0, 0, 1]).headIs .join 4 (JoinMsg.payload ⟨.hatch .road, 0, 1⟩) 0 ∧
    (member .lift).joinState 4 ⟨.hatch .road, 0, 1⟩ = .joining ∧
    (member .lift).joinState 4 ⟨.hatch .road, 1, 1⟩ = .barred ∧ (member .lift).joinState 4 ⟨.cab, 0, 1⟩ = .barred ∧
    (member .lift).joinState 1 ⟨.cab, 0, 1⟩ = .joining ∧
    (let p := JoinMsg.payload ⟨.lift, 0, (member .lift).serial⟩; (heads (member .lift) .join 0 p).headIs .join 0 p 0) ∧
    ((member .lift).entry 0).state = .member := by
  refine ⟨rfl, by decide, by decide, by decide, by decide, rfl, rfl⟩

/-- A POSTURE with the member set {0, 7}. -/
def postureOf (take : BitVec 8) (serial : BitVec 24) : PostureMsg :=
  { take := take, members := 129, conds := 0, sum := { depth := 0, step := none, man := none, idx := 0 }, halted := false
    serial := serial }

theorem test_met_DuplicateNumberBars :
    (heads (member .lift) .join 0 (JoinMsg.payload ⟨.cab, 0, 1⟩)).headIs .join 0 (JoinMsg.payload ⟨.cab, 0, 1⟩) 0 ∧
    (1 : BitVec 24) ≠ (member .lift).serial ∧ (postureOf 0 1).sum.inRange = true ∧
    (heads (member .lift) .posture 0 (postureOf 0 1).payload).headIs .posture 0 (postureOf 0 1).payload 0 :=
  ⟨rfl, by decide, by decide, rfl⟩

/-- A POSTURE that agrees; one that turns the third of four marks, so that the node is in the minority; a sighting. -/
theorem test_met_PostureUpdatesTheRoster :
    (heads (member .lift) .posture 1 (postureOf 0 1).payload).headIs .posture 1 (postureOf 0 1).payload 0 ∧
    (member .lift).diverged = false ∧ (1 : Node) ≠ (member .lift).own ∧
    (((member .lift).setEntry 1 { (member .lift).entry 1 with agree := false }).byPosture 2 (postureOf 1 1) 0).diverged =
      true ∧
    (inState .listen (member .lift)).member.mstate = .listen ∧ (postureOf 0 1).members.getLsbD 7 = true ∧
    ((member .lift).entry 7).state ≠ .member ∧
    (let q := postureOf 0 (member .lift).serial; (heads (member .lift) .posture 0 q.payload).headIs .posture 0 q.payload 0) ∧
    (let off (n : Node) (s : State) : State := s.setEntry n { s.entry n with agree := false }
    (off 2 (off 1 (member .lift))).diverged = true) := by
  refine ⟨rfl, by decide, by decide, by decide, rfl, by decide, by decide, rfl, by decide⟩

theorem test_met_ProbeAndReplyServeTheRelay :
    (heads (member .lift) .probe 1 [0, 1, 31]).headIs .probe 1 (ProbeMsg.payload ⟨0, .log 31⟩) 0 ∧
    (heads (member .lift) .probe 1 [7, 0, 0]).headIs .probe 1 (ProbeMsg.payload ⟨7, .status⟩) 0 ∧
    (heads (member .lift) .reply 1 [0, 1, 31, 0]).headIs .reply 1 [0, 1, 31, 0] 0 ∧
    readReplyPayload [0, 1, 31, 0] = some ⟨0, .log 31, .none⟩ ∧ (member .lift).own = 0 ∧
    ({ State.reset.port with relay := some ⟨1, .log 31⟩ } : PortUnit).relay = some { target := 1, req := .log 31 } ∧
    (member .lift).port.relay ≠ some { target := 1, req := .log 31 } := by
  refine ⟨rfl, rfl, rfl, by decide, rfl, rfl, by decide⟩

theorem test_met_MembershipTimersRunOut :
    (let s : State := { State.reset with member := { State.reset.member with
      mstate := .listen, listenTimer := some 450, joinTimer := some 500, restTimer := some 500 } }
    s.member.mstate = .listen ∧ s.member.listenTimer ≠ none ∧ (inState .joinWait s).member.joinTimer ≠ none ∧
      (inState .isolated s).member.restTimer ≠ none) ∧
    ((member .lift).entry 3).silence ≠ none ∧ ((inState .listen (member .lift)).entry 3).silence ≠ none ∧
    (member .lift).member.listenTimer = none ∧ (member .lift).member.joinTimer = none ∧
    (member .lift).member.restTimer = none ∧ ((member .lift).entry 0).silence = none := by
  decide

theorem test_met_RawChangesRunTheFilter :
    (State.reset.lines.inputs[(0 : Fin 16)]).closed ≠ false ∧ (State.reset.lines.inputs[(15 : Fin 16)]).closed = false ∧
    ((changing State.reset 9 false false).lines.inputs[(9 : Fin 16)]).timer ≠ none ∧
    (State.reset.lines.inputs[(1 : Fin 16)]).timer = none := by decide

theorem test_met_StopPressLetsTheNodeDown :
    (member .lift).straps.role = .lift ∧ ((changing (member .lift) 9 false false).lines.inputs[(9 : Fin 16)]).timer ≠ none ∧
    ((changing (member .lift) 0 false false).lines.inputs[(0 : Fin 16)]).closed = false ∧
    (member .lift).member.mstate = .member := by decide

/-- ACK by the originator, by the CAB for an originator that is gone, and by another node; with and without a run. -/
theorem test_met_AckIsReadByItsFourReaders :
    ((changing (member .cab) 1 true false).lines.inputs[(1 : Fin 16)]).timer ≠ none ∧
    ((changing (member .cab) 1 true false).lines.inputs[(1 : Fin 16)]).closed = true ∧
    (let s : State := { member .lift with table := { claims := [], halt := { latch := some 0, count := 1 } } }
    s.member.mstate = .member ∧ s.stopPressed = false ∧ s.table.halt.latch = some s.own) ∧
    (let s : State := { member .cab with table := { claims := [], halt := { latch := some 7, count := 1 } } }
    s.straps.role = .cab ∧ (s.entry 7).state ≠ .member) ∧
    (member .cab).runs.run = none ∧ (tilting .driving (.driving .down)).runs.run ≠ none ∧
    (let u := (member .beacon).beacon.set .flags { state := .lit, timer := none, demanded := true }
    ({ member .beacon with beacon := u.set .rear { state := .failed, timer := none, demanded := false } } : State).beaconLaws =
      true) ∧
    (latchedAt 1 (member .lift)).table.halt.latch = some 1 ∧ (latchedAt 1 (member .lift)).own ≠ 1 ∧
    ((channel (member .lift) .fold .faulted false).chans.get .fold).state = .faulted := by
  decide

theorem test_met_HeightCountFollowsThePlatform :
    (member .lift).straps.role = .lift ∧
    ((changing (member .lift) 12 true false).lines.inputs[(12 : Fin 16)]).timer ≠ none ∧
    ((changing (member .lift) 13 true false).lines.inputs[(13 : Fin 16)]).closed = true ∧
    (member .lift).fitRow.bed = 480 ∧
    ((member .lift).setHeight 543).lines.height = some 543 ∧ ((member .lift).setHeight 0).lines.height = some 0 ∧
    (member .lift).lines.height = none ∧ (member .cab).straps.role ≠ .lift := by decide

theorem test_met_HeldDetectorFollowsItsTable :
    (let s := changing (stands (member .lift) 2 true) 8 true false
    let u := s.setInput 8 { closed := true, active := true, timer := none }
    s.lines.held = .armed ∧ u.input 2 = true ∧ u.activeFns = [.unfold] ∧
      (s.lines.inputs[(8 : Fin 16)]).timer ≠ none) ∧
    (changing (member .lift) 2 true false).activeFns = [] ∧ ((member .lift).setHeld (.held .up)).lines.held = .held .up ∧
    (8 : Fin 16) ≠ LiftFn.up.input ∧ (3 : Fin 16) = LiftFn.up.input ∧
    ((member .lift).setHeld .spent).lines.held = .spent ∧ (member .lift).input 2 = false ∧
    (stands (stands (member .lift) 2 true) 3 true).activeFns ≠ [] := by decide

theorem test_met_HatchRequestsPassTheWindow :
    (member .hatch).straps.role = .hatch ∧
    ((changing (member .hatch) 2 true false).lines.inputs[(2 : Fin 16)]).timer ≠ none ∧
    (changing (member .hatch) 2 true false).input 4 = false ∧
    (let l : LineUnit := { (member .hatch).lines with openLatch := true, closeLatch := true, window := some 50 }
    l.window ≠ none ∧ l.openLatch = true ∧ l.closeLatch = true) ∧
    (member .hatch).runs.run = none ∧ (inState .listen (member .hatch)).member.mstate ≠ .member ∧
    (latchedAt 1 (member .hatch)).table.halt.latch ≠ none ∧ (member .hatch).table.halt.latch = none ∧
    ((member .hatch).touchRequest .openHatch).outstanding .claim = true ∧
    ((member .hatch).touchRequest .openHatch).link.tx.map TxEntry.frame =
      [.claim { pump := true, rear := false, kerb := true, road := false } 11 .openHatch] := by decide

theorem test_met_StandstillFollowsThePulses :
    State.reset.straps.role = .cab ∧ State.reset.lines.standTimer ≠ none ∧ (member .lift).straps.role ≠ .cab ∧
    ({ node := 0, role := 0, side := false, fit := 0 } : StrapPins).role = 0 ∧
    ∃ t, exec .timeTagTick State.reset = .next t := ⟨rfl, by decide, by decide, rfl, _, rfl⟩

/-- An open load at a channel that is closed and at one that drives; a DARK, a WARMING and a tested lamp group. -/
theorem test_met_DriverFaultsReachTheirOutputs :
    (member .lift).output 3 = .off ∧ (tilting .driving (.driving .down)).output 3 ≠ .off ∧
    (member .lift).straps.role.chanOfOutput 3 = some .tilt ∧ (member .beacon).straps.role.groupOfOutput 5 = some .flags ∧
    ((member .beacon).beacon.get .flags).state = .dark ∧ (member .beacon).beacon.test ≠ .slot .flags ∧
    (member .lift).straps.role.chanOfOutput 9 = none ∧ (member .lift).straps.role.groupOfOutput 9 = none := by decide

theorem test_met_ChannelTakesCommandsByItsTable :
    (channel (member .lift) .lift .relieving false).chans.lift.command .hold = none ∧
    (ChanRec.enter (.driving .up) none).command (.drive .down) = none := by decide

theorem test_met_SettleTimersMoveTheChannelOn :
    (∀ st ∈ [ChanState.opening, .relieving, .resting], ((channel (member .lift) .fold st true).chans.get .fold).settle ≠ none ∧
      ((channel (member .lift) .fold st true).chans.get .fold).state = st) ∧
    ((channel (member .lift) .fold .resting true).chans.get .fold).held = true ∧
    ChanRec.closed.command .openCmd = some (ChanRec.enter .opening (some 60)) ∧
    ChanRec.closed.state ≠ (ChanRec.enter .opening (some 60)).state := by decide

theorem test_met_VerdictsReachTheRunEngine :
    (∃ r, (runs (member .lift) .lower .claiming .queued).runs.run = some r ∧ r.phase = .claiming ∧ r.mode = .queued ∧
      r.nests = []) ∧
    (∃ r, (runs (member .lift) .lower .running .held).runs.run = some r ∧ r.phase = .running) ∧
    (∃ r, (runs (member .lift) .lower .ending .held).runs.run = some r ∧ r.phase = .ending) ∧
    (∃ r, (runs (member .lift) .lower .claiming .deferred).runs.run = some r ∧ r.phase = .claiming ∧
      r.mode = .deferred) ∧
    (member .lift).runs.run = none ∧ (member .lift).outstanding .yield = false ∧
    (sends (member .lift) .yield 0 .quiet).outstanding .yield = true := by
  refine ⟨⟨_, rfl, rfl, rfl, rfl⟩, ⟨_, rfl, rfl⟩, ⟨_, rfl, rfl⟩, ⟨_, rfl, rfl, rfl⟩, rfl, by decide, by decide⟩

/-- A node whose run began with a pendant function. -/
def heldBy (s : State) (f : LiftFn) : State := { s with runs := { s.runs with fn := some f } }

/-- CLAIMING, RUNNING, PAUSED by its function, and ENDING. -/
theorem test_met_RequestsAndWaitsSteerARun :
    (∃ r, (runs (member .lift) .lower .claiming .queued).runs.run = some r ∧ r.phase = .claiming ∧
      (runs (member .lift) .lower .claiming .queued).runs.claimWait ≠ none) ∧
    (∃ r c, (heldBy (tilting .driving (.driving .down)) .tiltDown).runs.run = some r ∧ r.phase = .running ∧
      (heldBy (tilting .driving (.driving .down)) .tiltDown).runs.fn = some .tiltDown ∧
      (tilting .driving (.driving .down)).steps.cur = some c) ∧
    (∃ r c, (walks (runs (member .lift) .lower .paused .held) .paused none).runs.run = some r ∧ r.phase = .paused ∧
      r.phase ≠ .claiming ∧ (walks (runs (member .lift) .lower .paused .held) .paused none).steps.pause ≠ none ∧
      (walks (runs (member .lift) .lower .paused .held) .paused none).runs.fn ≠ some .up ∧
      (walks (runs (member .lift) .lower .paused .held) .paused none).steps.cur = some c ∧ c.noRecord = false) ∧
    (∃ r, (runs (member .lift) .lower .ending .none).runs.run = some r ∧ r.phase = .ending) ∧
    (member .lift).runs.run = none ∧ (inState .listen (member .lift)).member.mstate ≠ .member ∧
    (latchedAt 1 (member .lift)).table.halt.latch ≠ none ∧ (member .lift).table.halt.latch = none ∧
    (member .lift).outstanding .claim = false ∧ (member .lift).member.mstate = .member := by
  refine ⟨⟨_, rfl, rfl, by decide⟩, ⟨_, _, rfl, rfl, rfl, rfl⟩, ⟨_, _, rfl, rfl, by decide, by decide, by decide, rfl, rfl⟩
    , ⟨_, rfl, rfl⟩, rfl, by decide⟩

/-- A claim kept from HELD and from QUEUED, and one made anew; an owed YIELD with channels settled and not, and a DEFERRED
base with the way free and with a YIELD pending. -/
theorem test_met_SwitchKeepsOrRemakesTheClaim :
    (∃ r, (tilting .driving (.driving .down)).runs.run = some r ∧ r.mode = .held ∧ r.base.man = .tiltDown) ∧
    keepsClaim .kerb .tiltDown .lower = true ∧ keepsClaim .kerb .tiltDown .tiltUp = false ∧
    (∃ r, (runs (member .lift) .tiltDown .claiming .deferred).runs.run = some r ∧ r.phase = .claiming ∧
      r.mode = .deferred ∧ r.mode ≠ .held ∧ r.owesYield = false ∧ ({ r with owesYield := true } : Run).owesYield = true) ∧
    (member .lift).settled = true ∧ (channel (member .lift) .fold .relieving false).settled = false ∧
    (member .lift).outstanding .claim = false ∧ (member .lift).outstanding .yield = false ∧
    (sends (member .lift) .yield 0 .quiet).outstanding .yield = true := by
  refine ⟨⟨_, rfl, rfl, rfl⟩, ?_, ?_, ⟨_, rfl, rfl, rfl, ?_, rfl, rfl⟩, ?_⟩
  all_goals decide

/-- A run of TILT-DOWN with a nested LOWER entry on top, its step ended with an outcome. -/
def nested (o : RunOutcome) : State :=
  let s := tilting .ended (.driving .down)
  let entry : RunEntry :=
    { RunEntry.base .lower 2 .kerb 1 with origin := .nest, left := 1, back := some 1, nest := some .walking }
  let below : RunEntry := { RunEntry.base .tiltDown 1 .kerb 1 with resume := some 1 }
  { s with
    runs := { s.runs with run := s.runs.run.map fun r => { r with base := below, nests := [entry], nestCount := 1 } }
    steps := { s.steps with cur := s.steps.cur.map fun c => { c with result := some (o, none) } } }

/-- A trigger with no nest, with one entry nested, with three nests made, and with two entries; a step that ends in a base
and in a nested entry; ENDING with channels settled and not. -/
theorem test_met_StackEntriesAreMadeAndLeave :
    (∃ r c d, (tilting .driving (.driving .down)).walked = some (r, c, d) ∧ r.nestCount ≠ 3 ∧ r.nests.length < 2 ∧
      r.nests = [] ∧ ({ r with nestCount := 3 } : Run).nestCount = 3 ∧
      2 ≤ ({ r with nests := [r.base, r.base] } : Run).nests.length ∧ r.top.left ≤ 1 ∧
      1 < (RunEntry.base .fold 1 .kerb 1).left) ∧
    (claims (member .lift) [claimOf 0 2 .granted]).baseSet.covers ({ ResSet.empty with rear := true }) = true ∧
    (member .lift).baseSet.covers ({ ResSet.empty with rear := true }) = false ∧
    (∃ r c e, (nested .done).runs.run = some r ∧ r.phase = .running ∧ (nested .done).steps.cur = some c ∧
      c.result = some (.done, none) ∧ r.nests = e :: [] ∧ e.left ≤ 1) ∧
    (∃ r c d, (nested .failed).runs.run = some r ∧ (nested .failed).steps.cur = some c ∧
      c.result = some (.failed, none) ∧ (nested .failed).stepOf ({ r with nests := [] } : Run).top = some d) ∧
    (∃ r, ((tilting .driving (.driving .down)).enterEnding .failed (some .limit)).runs.run = some r ∧ r.phase = .ending ∧
      r.ending = some (.failed, some .limit)) ∧
    ((tilting .driving (.driving .down)).enterEnding .failed none).settled = false ∧
    (runs (member .lift) .lower .ending .none).settled = true := by
  refine ⟨⟨_, _, _, rfl, by decide, by decide, rfl, rfl, by decide, by decide, by decide⟩, by decide, by decide
    , ⟨_, _, _, rfl, rfl, rfl, rfl, rfl, by decide⟩, ⟨_, _, _, rfl, rfl, rfl, rfl⟩, ⟨_, rfl, rfl, rfl⟩, by decide, by decide⟩

theorem test_met_StepTimersAndFailuresMoveTheStep :
    (∀ st ∈ [StepState.leading, .arming, .stalled, .priming, .driving],
      ∃ r c d, (tilting st (.driving .down)).walked = some (r, c, d) ∧ c.state = st ∧ c.limit = some 3000 ∧
        d.driveTimeEnd = some 2500 ∧ ((tilting st (.driving .down)).chans.get d.chan).state = .driving d.dir ∧
        d.retries ≤ (tilting st (.driving .down)).steps.retries ∧
        (tilting st (.driving .down)).steps.retries < ({ d with retries := 1 } : StepDef).retries) ∧
    (tilting .leading .closed).steps.lead ≠ none ∧ (tilting .arming .closed).steps.recovery ≠ none ∧
    (tilting .priming .opened).steps.priming ≠ none ∧ (∃ r, (tilting .closing .closed).runs.run = some r) := by
  refine ⟨?_, by decide, by decide, by decide, _, rfl⟩
  intro st _
  exact ⟨_, _, _, rfl, rfl, rfl, by decide, rfl, Nat.le_refl 0, Nat.zero_lt_one⟩

/-- A node whose CAB shows BRAKE-SET, STANDSTILL and BODY-ON, and whose BEACON shows REAR-LIT. -/
def shown (s : State) : State :=
  (s.setEntry 1 { s.entry 1 with last := some { (postureOf 0 1).last with conds := 56 } }).setEntry 2
    { s.entry 2 with last := some { (postureOf 0 1).last with conds := 8 } }

/-- A current step at a gate of ARMING, or in a later state. -/
def stepAt (st : StepState) (g : Gate) (skip : Bool) : CurStep :=
  { state := st, gate := g, testSkip := skip, limit := none, noRecord := true, result := none }

/-- A LIFT node UNFOLDED on the floor, LEVEL, its way clear and its line at pressure, that walks a step of a manoeuvre
with its channels in a state and no timer running. -/
def walking (m : Manoeuvre) (idx : Nat) (c : CurStep) (x : ChanState) : State :=
  let s := [11, 12, 14, 15].foldl (fun t i => stands t i true) (shown (runs (member .lift) m .running .held))
  let idle : ChanRec := { state := x, held := false, settle := none }
  { s with
    runs := { s.runs with run := s.runs.run.map fun r => { r with base := RunEntry.base m 1 .kerb idx } }
    chans := ((s.chans.set .lift idle).set .tilt idle).set .fold idle
    steps := { StepUnit.none with cur := some c } }

/-- A walked step that has not ended and satisfies a test. -/
def walksWith (s : State) (p : Run → CurStep → StepDef → Bool) : Bool :=
  s.walked.any fun x => x.2.1.result.isNone && p x.1 x.2.1 x.2.2

/-- An event after which an engine moves, the step engine's move and the run engine's, and one after which none does. -/
theorem test_met_StepEngineMovesOrRests_finish :
    (let s := walking .tiltDown 1 (stepAt .arming .check true) .resting
    (engineMove (State.noteChange s s)).isSome = true ∧ (stepMove s).isSome = true) ∧
    (let s := tilting .ended .closed
    stepMove s = none) ∧ engineMove (State.noteChange State.reset State.reset) = none := by
  decide +kernel

/-- A FAULTED channel and one let down under a step; ARMING at each gate (a fence or none, open and shut, a skip or none,
the way clear and not, a lead owed and not over each channel state); the way lost; OPENING, PRIMING, STALLED and CLOSING
that go on; DRIVING that ends, nests, stalls, takes its channel over and finds it lost; a step with nothing left to do. -/
theorem test_met_StepEngineMovesOrRests :
    let way (s : State) (d : StepDef) : Bool := s.interlock d && !s.stopPressed
    let arming (g : Gate) (x : ChanState) := walking .tiltDown 1 (stepAt .arming g true) x
    let raise (st : StepState) (x : ChanState) := walking .raise 2 (stepAt st .way true) x
    walksWith (arming .check .faulted) (fun _ _ _ => true) = true ∧
    walksWith (tilting .opening .relieving) (fun _ _ _ => true) = true ∧
    walksWith (arming .check .resting) (fun _ _ d => !d.fence) = true ∧
    walksWith (walking .fold 3 (stepAt .arming .check true) .resting) (fun _ _ d => d.fence) = true ∧
    walksWith (arming .fence .closed) (fun _ _ _ => true) = true ∧ (arming .fence .closed).chans.lift.state = .closed ∧
    (arming .fence .resting).chans.lift.state ≠ .closed ∧ (arming .fence .resting).steps.recovery = none ∧
    walksWith (walking .raise 1 (stepAt .arming .skip true) .closed) (fun _ c d =>
      c.testSkip && d.skipIf == some (.level, true)) = true ∧ (raise .arming .closed).cond .level = true ∧
    walksWith (arming .skip .closed) (fun _ _ d => d.skipIf == none) = true ∧
    walksWith (arming .way .closed) (fun r _ d => way (arming .way .closed) d && d.lead && !r.leadServed && r.nests == [])
      = true ∧
    (∀ x ∈ [ChanState.closed, .resting, .opened],
      walksWith (walking .level 1 (stepAt .arming .way true) x) (fun _ _ d =>
        way (walking .level 1 (stepAt .arming .way true) x) d && !d.lead) = true) ∧
    (∀ st ∈ [StepState.arming, .leading, .opening, .priming],
      walksWith (stands (walking .tiltDown 1 (stepAt st .way true) .opened) 12 false) (fun _ _ d =>
        !way (stands (walking .tiltDown 1 (stepAt st .way true) .opened) 12 false) d) = true) ∧
    (∀ x ∈ [ChanState.opened, .holding], walksWith (raise .opening x) (fun _ _ d => way (raise .opening x) d) = true) ∧
    walksWith (raise .priming .opened) (fun _ _ d => way (raise .priming .opened) d) = true ∧
    (raise .priming .opened).pressure = true ∧ (stands (raise .priming .opened) 15 false).pressure = false ∧
    (raise .priming .opened).steps.priming = none ∧
    walksWith (walking .tiltDown 1 (stepAt .driving .way true) (.driving .down)) (fun _ _ d =>
      d.ends == [.driveTime 2500]) = true ∧
    walksWith (stands (raise .driving (.driving .up)) 14 false) (fun _ _ d => d.nest == some (.level, false, .level)) =
      true ∧
    (stands (raise .driving (.driving .up)) 14 false).cond .level = false ∧
    walksWith (stands (raise .driving (.driving .up)) 15 false) (fun _ _ d =>
      d.powered && d.ends.length == 2 && !(stands (raise .driving (.driving .up)) 15 false).endHolds d 0) = true ∧
    (∀ x ∈ [ChanState.opened, .holding, .closed], walksWith (raise .driving x) (fun _ _ d =>
      (raise .driving x).interlock d && !(raise .driving x).endHolds d 0) = true) ∧
    walksWith (raise .stalled .holding) (fun _ _ d => (raise .stalled .holding).interlock d) = true ∧
    walksWith (raise .closing .closed) (fun _ c _ => c.noRecord) = true ∧
    walksWith (tilting .closing .closed) (fun _ c _ => !c.noRecord) = true ∧
    stepMove (tilting .closing .relieving) = none ∧ walksWith (tilting .closing .relieving) (fun _ _ _ => true) = true := by
  decide +kernel

/-- A term of the own role, one shown by the MEMBER of a role, and the same while that peer is SILENT. -/
theorem test_met_StepsReadConditionsRosterAndCatalogue :
    (member .cab).straps.role = .cab ∧ (member .lift).straps.role ≠ .beacon ∧ (member .lift).memberOf .beacon = some 2 ∧
    (shown (member .lift)).term (.peer .beacon .rearLit true) = true ∧
    (shown (member .lift)).term (.peer .beacon .rearFailed true) = false ∧
    ((shown (member .lift)).setEntry 2 { (shown (member .lift)).entry 2 with heard := false }).term
      (.peer .beacon .rearFailed false) = false := by decide

/-- A change with the spacing timer stopped, with it running, and with an own POSTURE on the line; no change. -/
theorem test_met_PosturesFollowChangesAndTimers :
    (let s (t : Timer) (l : LineUse) : State := { stands (member .lift) 12 true with
      post := { period := some 50, spacing := t, changed := false }, link := { (member .lift).link with line := l } }
    (member .lift).condWord ≠ (s none .quiet).condWord ∧ (s none .quiet).member.mstate = .member ∧
      (finish (member .lift) (s none .quiet)).link.tx = [⟨.posture, 0, false⟩] ∧
      (finish (member .lift) (s (some 10) .quiet)).link.tx = [] ∧
      (finish (member .lift) (s (some 10) .quiet)).post.changed = true ∧
      (finish (member .lift) (s none (.sending .posture none []))).post.changed = true) ∧
    (member .lift).post.changed = false ∧ (inState .listen (member .lift)).member.mstate ≠ .member ∧
    (let s : State := { member .lift with post := { period := some 50, spacing := some 10, changed := true } }
    s.member.mstate = .member ∧ s.post.period ≠ none ∧ s.post.spacing ≠ none ∧ s.post.changed = true) ∧
    (member .lift).post.period = none ∧ (member .lift).post.spacing = none := by decide +kernel

/-- An empty slot, a full ring of distinct slots, and one whose oldest record is IN-PROGRESS and is passed over. -/
theorem test_met_LogRingReplacesTheOldestClosedRecord :
    let slot (n : Nat) (o : RunOutcome) : LogSlot := { slot := n, data := record .step o }
    let full : List LogSlot := slot 0 .inProgress :: (List.range 31).map fun n => slot (n + 1) .done
    (∀ x ∈ (member .lift).log.slots, x.slot ≠ (member .lift).log.wpos) ∧
    full.length = 32 ∧ nextSlot full = 1 ∧
    full = [slot 0 .inProgress] ++ slot 1 .done :: full.tail.tail ∧
    (∀ y ∈ [slot 0 .inProgress], y.slot ≠ 1 ∧ y.data.outcome = .inProgress) ∧ (∀ y ∈ full.tail.tail, y.slot ≠ 1) ∧
    (slot 1 .done).data.outcome ≠ .inProgress ∧ (slot 0 .inProgress).data.outcome = .inProgress ∧
    ({ record .step .inProgress with man := some .lower, idx := some 1 } : LogRec).man = some .lower ∧
    ((Manoeuvre.lower.step .kerb 1).map StepDef.chan) = some .lift := by decide

theorem test_met_PumpTimersRunOut :
    (let p : PumpUnit := { on := true, runTime := 89999, idle := some 10000, rest := some 45000, plaus := some 2000, faulty := false }
    p.idle ≠ none ∧ p.on = true ∧ p.rest ≠ none ∧ p.plaus ≠ none) ∧
    (member .lift).pump.idle = none ∧ (member .lift).pump.on = false ∧ (member .lift).pump.rest = none ∧
    (member .lift).pump.plaus = none ∧
    (let s (on faulty : Bool) : State :=
      stands { member .lift with pump := { (member .lift).pump with on := on, faulty := faulty } } 15 true
    let t := finish (s true false) (s true false)
    let u := finish (s false true) (stands (s false true) 15 false)
    t.pump.on = false ∧ t.pump.idle = some 10000 ∧ t.pump.plaus = some 2000 ∧ t.cond .pressureUp = true ∧
    (finish (s false true) (s false true)).cond .pressureUp = false ∧
    u.pump.faulty = false ∧ u.cond .pressureUp = false ∧ u.pump.plaus = none) := by decide +kernel

theorem test_met_BeaconTimersRunOut :
    (let u := (member .beacon).beacon.set .kerb { state := .warming, timer := some 100, demanded := true }
    let s : State := { member .beacon with beacon := u }
    (s.beacon.get .kerb).timer ≠ none ∧ (s.beacon.get .kerb).state = .warming ∧ s.groupDriven .kerb = true) ∧
    (let s : State := { member .beacon with beacon := { (member .beacon).beacon with test := .slot .flags, slot := some 500 } }
    s.beacon.test = .slot .flags ∧ s.beacon.slot ≠ none ∧ s.groupDriven .flags = true) ∧
    ({ timer := some 500, on := true } : Flash).timer ≠ none := by decide

/-- A BEACON with the test not run, in a slot and done, and a demand that begins. -/
theorem test_met_BeaconsFollowReplicaAndHazard :
    (member .beacon).straps.role = .beacon ∧ (member .beacon).beacon.test = .notRun ∧
    (let s := (member .beacon).setEntry 3 { (member .beacon).entry 3 with last := some { (postureOf 0 1).last with conds := 8 } }
    (finish s s).beacon.test = .slot .rear) ∧
    (finish (member .beacon) (latchedAt 1 (member .beacon))).beacon.test = .done ∧
    (finish (member .beacon) (claims (member .beacon) [claimOf 1 2 .granted])).beacon.rear.state = .warming ∧
    ((member .beacon).beacon.get .rear).demanded = false := by decide +kernel

theorem test_met_OutputsFollowTheirBlocks :
    Chan.tilt ∈ (tilting .driving (.driving .down)).straps.role.chans ∧
    (tilting .driving (.driving .down)).output 5 = .on ∧ (tilting .driving (.driving .down)).output 4 = .off ∧
    (tilting .driving (.driving .down)).output 3 = .hold ∧ (member .beacon).straps.role = .beacon ∧
    (member .cab).straps.role = .cab ∧ (latchedAt 1 (member .cab)).table.halt.latch ≠ none ∧
    State.reset.member.mstate ≠ .member ∧ State.reset.output 1 = .on ∧ (member .cab).table.halt.latch = none ∧
    (member .cab).output 1 = .off ∧
    ((member .cab).setEntry 4 { Entry.blank with state := .absent }).output 1 = .on ∧ (member .hatch).output 4 = .off := by
  decide

theorem test_met_PortAnswersAndRelays :
    (member .lift).port.answer = .idle ∧ ((member .lift).port.buf.gather statusLine).read = .status ∧
    ((member .lift).port.buf.gather rosterLine).read = .roster ∧ ((member .lift).port.buf.gather tableLine).read = .table ∧
    ((member .lift).port.buf.gather logLine).read = .log ∧ ((member .lift).port.buf.gather (typed ['x'])).read = .wrong ∧
    ((member .lift).port.buf.gather (typed [' '])).read = .blank ∧
    ((member .lift).answer [.ok]).port.answer ≠ .idle ∧ ((member .lift).port.buf.gather statusLine).read ≠ .blank ∧
    ((member .lift).port.buf.gather peerLine).read = .peerStatus 1 ∧
    ((member .lift).port.buf.gather peerLogLine).read = .peerLog 1 31 ∧ ((member .lift).entry 1).state = .member ∧
    (1 : Node) ≠ (member .lift).own ∧ ((member .lift).entry 0).state = .member ∧ ((member .lift).entry 7).state ≠ .member ∧
    (let p : PortUnit := { State.reset.port with relay := some ⟨1, .status⟩, relayTimer := some 250 }
    p.relayTimer ≠ none ∧ p.relay ≠ none) ∧
    ((member .lift).answer [.ok]).port.answer = .sending [.ok] ∧
    ({ State.reset.port with answer := .busyLine } : PortUnit).answer = .busyLine := by decide

/-- The receiver at its bounds: 32 and 126 stored, 31 and 127 bad, a framing error bad, a line feed ignored, the 33rd
character over-long and the next one dropped; the words of a request with one and two digits. -/
theorem test_met_PortAnswersAndRelays_characters :
    let one (n : Nat) : RxChar := { code := BitVec.ofNat 8 n, stopLow := false }
    let full := LineBuf.empty.gather (List.replicate 32 (one 65))
    (LineBuf.empty.gather [one 32, one 126, one 10]) = ⟨[32, 126], false, false⟩ ∧
    (LineBuf.empty.gather [one 31]) = ⟨[], true, false⟩ ∧ (LineBuf.empty.gather [one 127]) = ⟨[], true, false⟩ ∧
    (LineBuf.empty.gather [{ one 65 with stopLow := true }]) = ⟨[], true, false⟩ ∧
    full.chars.length = 32 ∧ full.overLong = false ∧ full.gather [one 65] = { full with overLong := true } ∧
    full.gather [one 65, one 31] = { full with overLong := true } ∧
    (LineBuf.empty.gather (typed ['P', 'E', 'E', 'R', ' ', '7', ' ', 'L', 'O', 'G', ' ', '0', '9'])).read = .peerLog 7 9 := by
  decide +kernel

/-- A lawful state in which a channel drives: the node's own record is GRANTED and its step is DRIVING. -/
theorem test_met_MotionNeedsAGrantedClaim :
    (claims (tilting .driving (.driving .down)) [claimOf 0 2 .granted]).motionLaws = true ∧
    ((claims (tilting .driving (.driving .down)) [claimOf 0 2 .granted]).chans.get .tilt).state = .driving .down ∧
    ∃ t, step (claims (tilting .driving (.driving .down)) [claimOf 0 2 .granted]) = .next t := by
  refine ⟨by decide +kernel, rfl, _, rfl⟩

theorem test_met_EveryStepKeepsTheBlockLaws :
    (tilting .driving (.driving .down)).stackLaws = true ∧ (member .lift).link.laws = true ∧ (member .lift).log.laws = true ∧
    (changing State.reset 3 true false).filterLaws = true ∧ (member .lift).pumpLaws = true ∧
    State.reset.beaconLaws = true ∧ ∃ t, step State.reset = .next t :=
  ⟨by decide, by decide, by decide, by decide, by decide +kernel, by decide, _, rfl⟩

theorem test_met_PayloadsReadBack :
    (ClaimMsg.mk 255 255 .fold).set < 256 ∧ (postureOf 0 0).sum.inRange = true ∧ HaltState.off.laws = true ∧
    (⟨some 7, 15⟩ : HaltState).laws = true ∧ (claimOf 1 12 .granted).inRange = true ∧
    ({ snapOf 0 .joining with claims := [claimOf 1 12 .granted] } : SnapMsg).lawful = true ∧
    ({ record .step .done with man := some .fold, idx := some 3, height := some 1103, depth := 2 } : LogRec).inRange =
      true ∧ (record .restart .done).inRange = true := by decide

/-- A step record whose absent end tag came with other bytes than 0 is read. -/
theorem test_met_PayloadsReadBack_record :
    (readReplyPayload ([0, 1, 2, 2] ++ [0, 0, 1, 0, 1, 0, 1, 0, 0, 0, 5, 0, 9, 0, 0, 0])).isSome = true := by
  decide +kernel

theorem test_met_MembersProcessFramesAlike :
    (let s := heads (member .lift) .claim 1 [2, 2, 2]
    let s' := heads { member .lift with straps := { (member .lift).straps with node := 3 } } .claim 1 [2, 2, 2]
    s.member.mstate = .member ∧ s'.member.mstate = .member ∧ sameReplica s s' ∧
      s.link.rx.head? = some ⟨.claim, 1, [2, 2, 2], 0⟩ ∧ s'.link.rx.head? = some ⟨.claim, 1, [2, 2, 2], 0⟩) ∧
    ∀ m, readSnapPayload (snapOf 7 .member).payload = some m → m.subject ≠ (0 : Node) ∧ m.subject ≠ (3 : Node) := by
  refine ⟨⟨rfl, rfl, ⟨rfl, rfl, rfl, fun _ => ⟨rfl, rfl⟩⟩, rfl, rfl⟩, ?_⟩
  intro m h
  rw [test_met_SnapshotAdmitsItsSubject.2.1] at h
  cases h
  decide

end Sys2Proof.Tests
end

section
/-! Proofs about the claim table (chapter 3): what grant evaluation does to the list (R54, R55), and how a MEMBER
processes a CLAIM (R50). -/

namespace Sys2Proof.ClaimTable

open Sys2Proof.Machine Sys2Proof.Laws

/-! ## Units in use -/

theorem supplyInUse_append (l k : List ClaimRec) : supplyInUse (l ++ k) = supplyInUse l + supplyInUse k := by
  simp [supplyInUse]

theorem supplyInUse_cons (r : ClaimRec) (l : List ClaimRec) :
    supplyInUse (r :: l) = (if r.state = .granted then r.units else 0) + supplyInUse l := by
  by_cases h : r.state = .granted <;> simp [supplyInUse, h]

/-! ## The visit of a record -/

theorem grantable_iff (older younger : List ClaimRec) (r : ClaimRec) :
    grantable older younger r = true ↔ mayGrant older younger r := by
  have waiting_or (q : ClaimRec) (p : Prop) : (q.state = .waiting ∨ p) ↔ (q.state = .granted → p) := by
    cases q.state <;> simp
  have granted_or (q : ClaimRec) (p : Prop) : (q.state = .granted ∨ p) ↔ (q.state = .waiting → p) := by
    cases q.state <;> simp
  have units_or (p : Prop) : (r.units = 0 ∨ p) ↔ (0 < r.units → p) := by
    rw [Nat.pos_iff_ne_zero, ← or_iff_not_imp_left]
  simp only [grantable, mayGrant, Bool.and_eq_true, Bool.or_eq_true, List.all_eq_true, decide_eq_true_eq, beq_iff_eq,
    Bool.not_eq_true', waiting_or, granted_or, units_or, and_assoc]

/-- The record as its visit leaves it. -/
def visited (older younger : List ClaimRec) (r : ClaimRec) : ClaimRec :=
  if r.state = .waiting ∧ grantable older younger r = true then { r with state := .granted } else r

theorem grantWalk_cons (older rest : List ClaimRec) (r : ClaimRec) :
    grantWalk older (r :: rest) = grantWalk (older ++ [visited older rest r]) rest := by
  rw [grantWalk, visited]
  split <;> rfl

theorem visited_of_mayGrant {older younger : List ClaimRec} {r : ClaimRec} (hw : r.state = .waiting)
    (hm : mayGrant older younger r) : visited older younger r = { r with state := .granted } :=
  if_pos ⟨hw, (grantable_iff ..).2 hm⟩

theorem visited_of_not {older younger : List ClaimRec} {r : ClaimRec}
    (h : ¬(r.state = .waiting ∧ mayGrant older younger r)) : visited older younger r = r :=
  if_neg (by rwa [grantable_iff])

/-- `x` is the record `r`, or `r` made GRANTED. -/
def Raised (r x : ClaimRec) : Prop := x = r ∨ x = { r with state := .granted }

theorem visited_raised (older younger : List ClaimRec) (r : ClaimRec) : Raised r (visited older younger r) := by
  unfold visited
  split
  · exact .inr rfl
  · exact .inl rfl

theorem Raised.eq_of_granted {r x : ClaimRec} (h : Raised r x) (hr : r.state = .granted) : x = r := by
  rcases h with rfl | rfl
  · rfl
  · rw [← hr]

theorem Raised.fields {r x : ClaimRec} (h : Raised r x) : { x with state := r.state } = r := by
  rcases h with rfl | rfl <;> rfl

theorem visited_granted_iff (older younger : List ClaimRec) (r : ClaimRec) :
    (visited older younger r).state = .granted ↔ r.state = .granted ∨ mayGrant older younger r := by
  cases hs : r.state with
  | granted => simp [(visited_raised older younger r).eq_of_granted hs, hs]
  | waiting =>
    by_cases hm : mayGrant older younger r
    · simp [visited_of_mayGrant hs hm, hm]
    · simp [visited_of_not (fun h => hm h.2), hs, hm]

/-- A record that its visit leaves WAITING is the record that was visited, and met not all four conditions. -/
theorem visited_waiting {older younger : List ClaimRec} {r : ClaimRec}
    (h : (visited older younger r).state = .waiting) :
    visited older younger r = r ∧ ¬mayGrant older younger r := by
  have hn : ¬(r.state = .granted ∨ mayGrant older younger r) := by
    rw [← visited_granted_iff, h]
    exact nofun
  exact ⟨visited_of_not fun hm => hn (.inr hm.2), fun hm => hn (.inr hm)⟩

/-! ## The walk -/

/-- The walk visits the front of the list first, and goes on behind the records as it left them. -/
theorem grantWalk_append (a b older : List ClaimRec) :
    ∃ w, List.Forall₂ Raised a w ∧ grantWalk older (a ++ b) = grantWalk (older ++ w) b := by
  induction a generalizing older with
  | nil => exact ⟨[], .nil, by simp⟩
  | cons r a ih =>
    obtain ⟨w, hw, e⟩ := ih (older ++ [visited older (a ++ b) r])
    refine ⟨visited older (a ++ b) r :: w, .cons (visited_raised ..) hw, ?_⟩
    rw [List.cons_append, grantWalk_cons, e, List.append_assoc, List.singleton_append]

theorem grantWalk_eq_append (l older : List ClaimRec) :
    ∃ w, List.Forall₂ Raised l w ∧ grantWalk older l = older ++ w := by
  obtain ⟨w, hw, e⟩ := grantWalk_append l [] older
  exact ⟨w, hw, by rw [List.append_nil] at e; rw [e, grantWalk]⟩

/-- Around any of its records, the list after evaluation: the older ones as their visits left them, the record as its
visit left it, and the younger ones raised later. -/
theorem evalGrants_around (a b : List ClaimRec) (r : ClaimRec) :
    ∃ w z, List.Forall₂ Raised a w ∧ List.Forall₂ Raised b z ∧ evalGrants (a ++ r :: b) = w ++ visited w b r :: z := by
  obtain ⟨w, hw, ew⟩ := grantWalk_append a (r :: b) []
  obtain ⟨z, hz, ez⟩ := grantWalk_eq_append b (w ++ [visited w b r])
  refine ⟨w, z, hw, hz, ?_⟩
  rw [evalGrants, ew, List.nil_append, grantWalk_cons, ez, List.append_assoc, List.singleton_append]

theorem evalGrants_length (l : List ClaimRec) : (evalGrants l).length = l.length := by
  obtain ⟨w, hw, e⟩ := grantWalk_eq_append l []
  rw [evalGrants, e, List.nil_append, hw.length_eq]

/-! ## Grants made later -/

theorem supplyInUse_le_of_raised {b z : List ClaimRec} (h : List.Forall₂ Raised b z) :
    supplyInUse b ≤ supplyInUse z := by
  induction h with
  | nil => exact le_rfl
  | @cons r x b z hr _ ih =>
    rw [supplyInUse_cons, supplyInUse_cons]
    refine Nat.add_le_add ?_ ih
    rcases hr with rfl | rfl
    · exact le_rfl
    · simp only [if_true]
      split
      · exact le_rfl
      · exact Nat.zero_le _

theorem mem_of_raised {b z : List ClaimRec} (h : List.Forall₂ Raised b z) {q : ClaimRec} (hq : q ∈ b)
    (hg : q.state = .granted) : q ∈ z := by
  induction h with
  | nil => cases hq
  | cons hr _ ih =>
    rcases List.mem_cons.mp hq with rfl | hq
    · rw [hr.eq_of_granted hg]
      exact List.mem_cons_self
    · exact List.mem_cons_of_mem _ (ih hq)

/-- Grants made behind a record can only take its own grant away from it: if it meets the four conditions after them,
it met them before. -/
theorem mayGrant_of_raised {older b z : List ClaimRec} {r : ClaimRec} (h : List.Forall₂ Raised b z)
    (hm : mayGrant older z r) : mayGrant older b r := by
  obtain ⟨hfree, hunits, hset, hzero⟩ := hm
  refine ⟨fun q hq hg => hfree q ?_ hg, ?_, hset, hzero⟩
  · rcases List.mem_append.mp hq with hq | hq
    · exact List.mem_append_left _ hq
    · exact List.mem_append_right _ (mem_of_raised h hq hg)
  · have := supplyInUse_le_of_raised h
    rw [supplyInUse_append] at hunits ⊢
    omega

/-! ## Grant evaluation by its four conditions -/

theorem evalGrants_at (a b : List ClaimRec) (r : ClaimRec) :
    ∃ x, (evalGrants (a ++ r :: b))[a.length]? = some x ∧ { x with state := r.state } = r ∧
      (x.state = .granted ↔ r.state = .granted ∨ mayGrant ((evalGrants (a ++ r :: b)).take a.length) b r) := by
  obtain ⟨w, z, hw, -, e⟩ := evalGrants_around a b r
  refine ⟨visited w b r, ?_, (visited_raised w b r).fields, ?_⟩
  · simp [e, hw.length_eq]
  · rw [e, hw.length_eq, List.take_left]
    exact visited_granted_iff w b r

theorem not_mayGrant_of_evalGrants {l a b : List ClaimRec} {r : ClaimRec} (h : evalGrants l = a ++ r :: b)
    (hr : r.state = .waiting) : ¬mayGrant a b r := by
  have hlen : a.length < l.length := by
    rw [← evalGrants_length l, h]
    simp
  obtain ⟨w, z, hw, hz, e⟩ := evalGrants_around (l.take a.length) (l.drop (a.length + 1)) l[a.length]
  rw [← List.drop_eq_getElem_cons hlen, List.take_append_drop, h] at e
  have hlw : a.length = w.length := by
    rw [← hw.length_eq, List.length_take, Nat.min_eq_left hlen.le]
  obtain ⟨rfl, e⟩ := List.append_inj e hlw
  obtain ⟨rfl, rfl⟩ := List.cons.inj e
  obtain ⟨hv, hn⟩ := visited_waiting hr
  rw [hv]
  exact fun hm => hn (mayGrant_of_raised hz hm)

/-- Settles O24: at its visit a record stands between the walked and the unwalked part of the list, and grants made
after the visit only make its conditions harder. -/
theorem grantEvaluationFollowsItsFourConditions : Obligations.GrantEvaluationFollowsItsFourConditions := by
  unfold Obligations.GrantEvaluationFollowsItsFourConditions
  intro l
  refine ⟨evalGrants_length l, ?_, fun _ _ _ => not_mayGrant_of_evalGrants⟩
  rintro a b r rfl
  exact evalGrants_at a b r

/-! ## Admission -/

theorem hasClaim_iff (l : List ClaimRec) (n : Node) : hasClaim l n = true ↔ ∃ r ∈ l, r.claimant = n := by
  simp [hasClaim]

theorem latched_iff (s : State) : s.latched = true ↔ s.table.halt.latch ≠ none := by
  rw [State.latched, Option.isSome_iff_ne_none]

theorem admission_eq (s : State) (n : Node) (c : ClaimMsg) :
    s.admission n c =
      if s.table.halt.latch ≠ none then some .latched
      else if (s.entry n).state ≠ .member then some .notMember
      else if ∃ r ∈ s.table.claims, r.claimant = n then some .hasRecord
      else if c.set = 0 ∨ 15 < c.set ∨ 12 < c.units then some .badClaim
      else none :=
  if_congr (latched_iff s) rfl (if_congr .rfl rfl (if_congr (hasClaim_iff _ n) rfl rfl))

/-! ## A CLAIM from a claimant -/

/-- A CLAIM with codes below 256 reads back as sent. -/
theorem readClaimPayload_payload {c : ClaimMsg} (hs : c.set < 256) (hu : c.units < 256) :
    readClaimPayload c.payload = some c := by
  have hc : c.man.code < 256 := Nat.lt_of_le_of_lt (manoeuvre_code_range c.man).2 (by decide)
  simp only [readClaimPayload, ClaimMsg.payload, toNat_byte _ hs, toNat_byte _ hu, toNat_byte _ hc,
    (manoeuvre_ofCode _ _).2 rfl]

/-- A MEMBER that processes a CLAIM removes the frame and judges it. -/
theorem exec_claim {s : State} {n : Node} {c : ClaimMsg} {m : BitVec 8} (hm : s.member.mstate = .member)
    (hs : c.set < 256) (hu : c.units < 256) (h : s.headIs .claim n c.payload m) :
    exec .claim s = .next (finish s (s.popped.claimFrom n c)) := by
  have hmem : s.popped.isMember = true := beq_iff_eq.2 hm
  change execClaim s = _
  simp only [execClaim, process_head h, State.takeClaim, readClaimPayload_payload hs hu, hmem, if_true]

section

variable {s : State} {n : Node} {c : ClaimMsg}

theorem claimFrom_refused_peer {cause : Cause} (h : s.admission n c = some cause) (hn : n ≠ s.own) :
    s.claimFrom n c = s := by
  simp only [State.claimFrom, h, if_neg hn]

theorem claimFrom_refused_own {cause : Cause} (h : s.admission n c = some cause) (hn : n = s.own) :
    s.claimFrom n c = s.takeVerdict (.refused cause) := by
  simp only [State.claimFrom, h, if_pos hn]

theorem claimFrom_admitted_peer (h : s.admission n c = none) (hn : n ≠ s.own) :
    s.claimFrom n c = s.setClaims (s.admitted n c) := by
  simp only [State.claimFrom, h, if_neg hn]

theorem claimFrom_admitted_own (h : s.admission n c = none) (hn : n = s.own) :
    s.claimFrom n c = (s.setClaims (s.admitted n c)).takeVerdict
      (if (s.setClaims (s.admitted n c)).ownGranted = true then .granted else .appended) := by
  simp only [State.claimFrom, h, if_pos hn]

/-- A verdict leaves the table and the member unit. -/
theorem takeVerdict_replica (t : State) (v : Verdict) :
    (t.takeVerdict v).table = t.table ∧ (t.takeVerdict v).member = t.member := by
  obtain ⟨-, -, hmem, htab, -⟩ := outer_fields (takeVerdict_outer t v)
  exact ⟨htab, hmem⟩

/-- Whatever the verdict, a refused CLAIM leaves the replica. -/
theorem claimFrom_refused_replica {cause : Cause} (h : s.admission n c = some cause) :
    (s.claimFrom n c).table = s.table ∧ (s.claimFrom n c).member = s.member := by
  by_cases hn : n = s.own
  · rw [claimFrom_refused_own h hn]
    exact takeVerdict_replica ..
  · rw [claimFrom_refused_peer h hn]
    exact ⟨rfl, rfl⟩

/-- Whatever the verdict, an admitted CLAIM changes the claim list alone in the replica. -/
theorem claimFrom_admitted_replica (h : s.admission n c = none) :
    (s.claimFrom n c).table = { s.table with claims := s.admitted n c } ∧ (s.claimFrom n c).member = s.member := by
  by_cases hn : n = s.own
  · rw [claimFrom_admitted_own h hn]
    exact takeVerdict_replica ..
  · rw [claimFrom_admitted_peer h hn]
    exact ⟨rfl, rfl⟩

end

/-- Settles O23, by whether admission refuses the CLAIM or admits it, and whether the claimant is the node itself. -/
theorem claimIsAdmittedOrRefused : Obligations.ClaimIsAdmittedOrRefused := by
  unfold Obligations.ClaimIsAdmittedOrRefused
  intro s n c m hm hs hu hhead refusal u
  have hadm : s.popped.admission n c = refusal := admission_eq s.popped n c
  rw [exec_claim hm hs hu hhead]
  clear_value refusal
  subst hadm
  refine ⟨fun cause h => ⟨fun hn => ?_, fun hn => ?_⟩, fun h => ⟨fun hn => ?_, fun hn => ?_⟩, _, rfl, ?_⟩
  · rw [claimFrom_refused_peer h hn]
  · rw [claimFrom_refused_own h hn]
  · rw [claimFrom_admitted_peer h hn]; rfl
  · rw [claimFrom_admitted_own h hn]; rfl
  · rw [finish_table, finish_member]
    cases h : s.popped.admission n c with
    | none => exact claimFrom_admitted_replica h
    | some cause => exact claimFrom_refused_replica h

end Sys2Proof.ClaimTable
end

section
/-! Proofs about the local lines (chapter 4): what a command leaves of the line unit, and STANDSTILL with its timer
(R76). -/

namespace Sys2Proof.LocalLines

open Sys2Proof.Machine Sys2Proof.Laws

/-! ## Where the line unit stays as it is -/

theorem lines_of_outer {s t : State} (h : outer t = outer s) : t.lines = s.lines := by
  obtain ⟨-, -, -, -, hlines, -⟩ := outer_fields h
  exact hlines

@[simp] theorem queue_lines (s : State) (f : TxFrame) : (s.queue f).lines = s.lines := lines_of_outer (queue_outer s f)

@[simp] theorem queueYield_lines (s : State) : s.queueYield.lines = s.lines := lines_of_outer (queueYield_outer s)

@[simp] theorem endStack_lines (s : State) (o : RunOutcome) : (s.endStack o).lines = s.lines :=
  lines_of_outer (endStack_outer s o)

@[simp] theorem takeVerdict_lines (s : State) (v : Verdict) : (s.takeVerdict v).lines = s.lines :=
  lines_of_outer (takeVerdict_outer s v)

@[simp] theorem touchRequest_lines (s : State) (m : Manoeuvre) : (s.touchRequest m).lines = s.lines :=
  lines_of_outer (touchRequest_outer s m)

@[simp] theorem heldBegin_lines (s : State) (f : LiftFn) : (s.heldBegin f).lines = s.lines :=
  lines_of_outer (heldBegin_outer s f)

@[simp] theorem heldEnd_lines (s : State) (f : LiftFn) : (s.heldEnd f).lines = s.lines :=
  lines_of_outer (heldEnd_outer s f)

@[simp] theorem writeRequest_lines (s : State) (m : Option Manoeuvre) (o : RunOutcome) (c : Cause) :
    (s.writeRequest m o c).lines = s.lines := rfl

@[simp] theorem dropPending_lines (s : State) (k : Kind) (x : Option Node) : (s.dropPending k x).lines = s.lines := by
  unfold State.dropPending
  split <;> rfl

/-! ### Records and the roster -/

@[simp] theorem removeRecord_lines (s : State) (n : Node) : (s.removeRecord n).lines = s.lines := by
  rw [removeRecord_eq]

@[simp] theorem removeFor_lines (s : State) (n : Node) (v : Verdict) : (s.removeFor n v).lines = s.lines := by
  unfold State.removeFor
  dsimp only
  split <;> split <;> simp

@[simp] theorem claimFrom_lines (s : State) (n : Node) (m : ClaimMsg) : (s.claimFrom n m).lines = s.lines := by
  unfold State.claimFrom
  split
  · split <;> simp
  · dsimp only
    split <;> simp

@[simp] theorem clearHalt_lines (s : State) : s.clearHalt.lines = s.lines := by
  unfold State.clearHalt
  dsimp only
  split <;> simp

@[simp] theorem enterListen_lines (s : State) : s.enterListen.lines = s.lines := rfl

@[simp] theorem enterJoinWait_lines (s : State) : s.enterJoinWait.lines = s.lines := queue_lines ..

@[simp] theorem enterMember_lines (s : State) : s.enterMember.lines = s.lines := by
  unfold State.enterMember
  dsimp only
  split <;> simp

@[simp] theorem snapOther_lines (s : State) (n : Node) : (s.snapOther n).lines = s.lines := by
  unfold State.snapOther
  dsimp only
  split <;> rfl

@[simp] theorem adopt_lines (s : State) (m : SnapMsg) : (s.adopt m).lines = s.lines := rfl

@[simp] theorem resync_lines (s : State) : s.resync.lines = s.lines := by
  unfold State.resync
  split <;> simp

@[simp] theorem found_lines (s : State) (n : Node) (m : JoinMsg) : (s.found n m).lines = s.lines := rfl

@[simp] theorem joinProvisional_lines (s : State) (n : Node) (m : JoinMsg) :
    (s.joinProvisional n m).lines = s.lines := by
  unfold State.joinProvisional
  split
  · split <;> simp
  · rfl

@[simp] theorem joinMember_lines (s : State) (n : Node) (m : JoinMsg) : (s.joinMember n m).lines = s.lines := by
  unfold State.joinMember
  cases (s.entry n).state <;> simp

@[simp] theorem byPosture_lines (s : State) (n : Node) (m : PostureMsg) (noted : BitVec 8) :
    (s.byPosture n m noted).lines = s.lines := by
  unfold State.byPosture
  dsimp only
  split <;> simp

@[simp] theorem fallSilent_lines (s : State) (n : Node) : (s.fallSilent n).lines = s.lines := by
  unfold State.fallSilent
  split
  · simp
  · split <;> rfl

/-! ### The link and the service port -/

@[simp] theorem take_lines (s : State) (k : Kind) (n : Node) (p : List Byte) (own : Bool) :
    (s.take k n p own).lines = s.lines := by
  unfold State.take
  dsimp only
  split <;> rfl

@[simp] theorem ownTaken_lines (s : State) (k : Kind) : (s.ownTaken k).lines = s.lines := by
  unfold State.ownTaken
  split
  · split <;> rfl
  · split <;> rfl
  · rfl

@[simp] theorem peerRequest_lines (s : State) (n : Node) (q : ProbeReq) : (s.peerRequest n q).lines = s.lines := by
  unfold State.peerRequest
  split
  · rfl
  · split <;> simp

@[simp] theorem accept_lines (s : State) (r : LineRead) : (s.accept r).lines = s.lines := by
  cases r <;> simp [State.accept]

@[simp] theorem handOn_lines (s : State) (r : LineRead) : (s.handOn r).lines = s.lines := by
  unfold State.handOn
  split
  · rfl
  · split <;> simp

@[simp] theorem portLine_lines (s : State) (l : List RxChar) : (s.portLine l).lines = s.lines := handOn_lines ..

/-! ## Where requests alone are dropped -/

/-- What the line unit holds beside the request latches, the window and the detector: what neither a HALT nor leaving
the body changes (R72, R74). -/
def besideRequests (l : LineUnit) : Vector Input 16 × Option Nat × Bool × Timer × Vector Bool 12 :=
  (l.inputs, l.height, l.standstill, l.standTimer, l.outLatch)

theorem dropRequests_besideRequests (s : State) : besideRequests s.dropRequests.lines = besideRequests s.lines := rfl

@[simp] theorem leave_besideRequests (s : State) (d : Departure) (c : Cause) :
    besideRequests (s.leave d c).lines = besideRequests s.lines := by
  calc besideRequests (s.leave d c).lines
      = besideRequests ((s.endStack .isolated).writeRequest none d.outcome c).lines := dropRequests_besideRequests _
    _ = besideRequests s.lines := by simp

@[simp] theorem halt_besideRequests (s : State) (n : Node) (src : StopSource) :
    besideRequests (s.halt n src).lines = besideRequests s.lines := by
  unfold State.halt
  rw [writeRequest_lines, dropRequests_besideRequests, endStack_lines]

@[simp] theorem checkDiverged_besideRequests (s : State) :
    besideRequests s.checkDiverged.lines = besideRequests s.lines := by
  unfold State.checkDiverged
  split <;> simp

@[simp] theorem evict_besideRequests (s : State) (n : Node) :
    besideRequests (s.evict n).lines = besideRequests s.lines := by
  unfold State.evict
  split
  · simp
  · split <;> simp

@[simp] theorem snapOwn_besideRequests (s : State) (m : SnapMsg) :
    besideRequests (s.snapOwn m).lines = besideRequests s.lines := by
  unfold State.snapOwn
  split <;> simp

@[simp] theorem loopTest_besideRequests (s : State) (bits : List Bool) (slot : Bool) :
    besideRequests (s.loopTest bits slot).lines = besideRequests s.lines := by
  unfold State.loopTest
  split
  · split <;> simp
  · rfl

@[simp] theorem attemptCounted_besideRequests (s : State) (k : Kind) (x : Option Node) (l : LineUse) :
    besideRequests (s.attemptCounted k x l).lines = besideRequests s.lines := by
  unfold State.attemptCounted
  split <;> simp

@[simp] theorem ownSlot_besideRequests (s : State) (k : Kind) (x : Option Node) (p : List Byte) (vetoed : Bool) :
    besideRequests (s.ownSlot k x p vetoed).lines = besideRequests s.lines := by
  unfold State.ownSlot
  split <;> simp

@[simp] theorem vetoFrame_besideRequests (s : State) : besideRequests s.vetoFrame.lines = besideRequests s.lines := by
  unfold State.vetoFrame
  split <;> simp

@[simp] theorem receiveSlot_besideRequests (s : State) (f : LineFrame) (vetoed : Bool) :
    besideRequests (s.receiveSlot f vetoed).lines = besideRequests s.lines := by
  unfold State.receiveSlot
  split
  · rfl
  · split
    · simp
    · split
      · rfl
      · split <;> simp

@[simp] theorem slot_besideRequests (s : State) (f : LineFrame) (vetoed : Bool) :
    besideRequests (s.slot f vetoed).lines = besideRequests s.lines := by
  unfold State.slot
  split <;> simp

/-! ### Processed frames -/

/-- A processing that leaves everything beside the requests, whatever the frame. -/
def LeavesBeside (f : RxRec → State → State) : Prop :=
  ∀ r s, besideRequests (f r s).lines = besideRequests s.lines

theorem LeavesBeside.process {f : RxRec → State → State} (h : LeavesBeside f) (s : State) (k : Kind) :
    besideRequests (s.process k f).lines = besideRequests s.lines := by
  unfold State.process
  split
  · rfl
  · split
    · exact h _ _
    · rfl

theorem takeHalt_leavesBeside : LeavesBeside State.takeHalt := by
  intro r s
  unfold State.takeHalt
  split
  · rfl
  · split <;> simp

theorem takeClear_leavesBeside : LeavesBeside State.takeClear := by
  intro r s
  unfold State.takeClear
  split
  · rfl
  · split <;> simp

theorem takeEvict_leavesBeside : LeavesBeside State.takeEvict := by
  intro r s
  unfold State.takeEvict
  split
  · rfl
  · split <;> simp

theorem takeYield_leavesBeside : LeavesBeside State.takeYield := by
  intro r s
  unfold State.takeYield
  split
  · rfl
  · split <;> simp

theorem takeClaim_leavesBeside : LeavesBeside State.takeClaim := by
  intro r s
  unfold State.takeClaim
  split
  · rfl
  · split <;> simp

theorem takeSnapshot_leavesBeside : LeavesBeside State.takeSnapshot := by
  intro r s
  unfold State.takeSnapshot
  split
  · rfl
  · split
    · split <;> simp
    · split <;> simp

theorem takeJoin_leavesBeside : LeavesBeside State.takeJoin := by
  intro r s
  unfold State.takeJoin
  split
  · rfl
  · split
    · rfl
    · split
      · simp
      · split <;> simp

theorem takePosture_leavesBeside : LeavesBeside State.takePosture := by
  intro r s
  unfold State.takePosture
  split
  · rfl
  · split
    · rfl
    · split
      · split
        · simp
        · split <;> simp
      · split <;> simp

theorem takeProbe_leavesBeside : LeavesBeside State.takeProbe := by
  intro r s
  unfold State.takeProbe
  split
  · rfl
  · split <;> simp

theorem takeReply_leavesBeside : LeavesBeside State.takeReply := by
  intro r s
  unfold State.takeReply
  split
  · rfl
  · split <;> rfl

/-! ## Outcomes -/

/-- In the state a command goes on in, `f` of the line unit is what it was in `s`. -/
def Leaves {α : Type} (f : LineUnit → α) (s : State) (o : Host.Outcome State Fault Refusal) : Prop :=
  ∀ t, o = .next t → f t.lines = f s.lines

section

variable {α : Type} {f : LineUnit → α} {s u : State}

theorem leaves_next (h : f u.lines = f s.lines) : Leaves f s (.next u) := by
  rintro _ ⟨⟩
  exact h

theorem leaves_finish (h : f u.lines = f s.lines) : Leaves f s (.next (finish s u)) :=
  leaves_next (by rw [finish_lines, h])

theorem leaves_finish_of_outer (h : outer u = outer s) : Leaves f s (.next (finish s u)) :=
  leaves_finish (by rw [lines_of_outer h])

end

/-- The commands that may change more of the line unit than the requests: its own, an output fault and the resets. -/
def isLineEvent : Instr → Bool
  | .rawInputChange _ _ | .inputFilterExpiry _ | .strokePulse | .roadSpeedPulse | .standstillTimer
  | .requestWindowTimer | .outputFaultLatch _ _ | .powerOnReset _ | .externalReset _ => true
  | _ => false

/-- Every other command leaves everything beside the requests. -/
theorem exec_leaves_besideRequests {c : Instr} (h : isLineEvent c = false) (s : State) :
    Leaves besideRequests s (exec c s) := by
  cases c with
  | powerOnReset | externalReset | rawInputChange | inputFilterExpiry | strokePulse | roadSpeedPulse | standstillTimer
  | requestWindowTimer | outputFaultLatch => cases h
  | loopTest bits slot => exact leaves_finish (loopTest_besideRequests ..)
  | attemptStart =>
    refine leaves_next ?_
    split
    · rfl
    · split <;> rfl
  | arbitrationLost =>
    refine leaves_finish ?_
    split <;> rfl
  | transmitError =>
    refine leaves_finish ?_
    split <;> simp
  | vetoSlot f vetoed => exact leaves_finish (slot_besideRequests ..)
  | transmitGuard =>
    refine leaves_finish ?_
    split <;> simp
  | idleGap =>
    refine leaves_next ?_
    split <;> rfl
  | halt => exact leaves_finish (takeHalt_leavesBeside.process ..)
  | clear => exact leaves_finish (takeClear_leavesBeside.process ..)
  | evict => exact leaves_finish (takeEvict_leavesBeside.process ..)
  | yield => exact leaves_finish (takeYield_leavesBeside.process ..)
  | claim => exact leaves_finish (takeClaim_leavesBeside.process ..)
  | snapshot => exact leaves_finish (takeSnapshot_leavesBeside.process ..)
  | join => exact leaves_finish (takeJoin_leavesBeside.process ..)
  | posture => exact leaves_finish (takePosture_leavesBeside.process ..)
  | probe => exact leaves_finish (takeProbe_leavesBeside.process ..)
  | reply => exact leaves_finish (takeReply_leavesBeside.process ..)
  | listenTimer | isolationRestTimer =>
    refine leaves_finish ?_
    split
    · split <;> simp
    · rfl
  | joinRepeatTimer =>
    refine leaves_finish ?_
    split
    · dsimp only
      split <;> simp
    · rfl
  | silenceTimer n =>
    refine leaves_finish ?_
    split <;> simp
  | channelDriverFault o k =>
    refine leaves_finish_of_outer ?_
    unfold State.channelFault
    split
    · rfl
    · split <;> rfl
  | lampFault o k =>
    refine leaves_finish_of_outer ?_
    unfold State.lampFault
    split
    · rfl
    · split <;> rfl
  | claimWaitTimer | pauseTimer | leadTimer | primingTimer =>
    refine leaves_finish_of_outer ?_
    split
    · split <;> simp [State.serveLead]
    · rfl
  | recoveryTimer =>
    refine leaves_finish_of_outer ?_
    split
    · unfold State.recoveryOut
      split <;> simp
    · rfl
  | driveLimit | driveTimeEnd =>
    refine leaves_finish_of_outer ?_
    split
    · split
      · split
        · simp [State.setDriveTime]
        · rfl
      · rfl
    · rfl
  | settleTimer c => exact leaves_finish_of_outer rfl
  | dutyLimit | restTimer | plausibilityTimer | groupTimer | testSlotTimer =>
    refine leaves_finish_of_outer ?_
    split <;> rfl
  | idleTimer =>
    refine leaves_next ?_
    split <;> rfl
  | posturePeriodTimer =>
    refine leaves_next ?_
    split <;> simp
  | postureSpacingTimer =>
    refine leaves_next ?_
    split
    · dsimp only
      split <;> simp
    · rfl
  | hazardFlashTimer | cabFaultFlashTimer | nodeOkFlashTimer | timeTagTick | answerSent => exact leaves_next rfl
  | status l | roster l | table l | log l | peerStatus l | peerLog l | error l =>
    exact leaves_next (congrArg besideRequests (portLine_lines s l))
  | relayTimer =>
    refine leaves_next ?_
    split <;> simp

/-! ## STANDSTILL and its timer -/

/-- STANDSTILL and what its timer has left (R76). -/
def standstillOf (l : LineUnit) : Bool × Timer := (l.standstill, l.standTimer)

theorem standstillOf_of_besideRequests {l k : LineUnit} (h : besideRequests l = besideRequests k) :
    standstillOf l = standstillOf k := by
  simp only [besideRequests, Prod.mk.injEq] at h
  obtain ⟨-, -, hstand, htimer, -⟩ := h
  rw [standstillOf, hstand, htimer, standstillOf]

/-! ### The readers of an input -/

@[simp] theorem stopPress_lines (s : State) (src : StopSource) : (s.stopPress src).lines = s.lines := by
  unfold State.stopPress
  dsimp only
  split <;> simp

theorem ackPress_standstill (s : State) : standstillOf s.ackPress.lines = standstillOf s.lines := by
  unfold State.ackPress
  extract_lets _ s1
  have hs1 : standstillOf s1.lines = standstillOf s.lines := rfl
  split
  · rw [queue_lines, hs1]
  · exact hs1

theorem pendantOn_standstill (s : State) (i : Fin 16) :
    standstillOf (s.pendantOn i).lines = standstillOf s.lines := by
  unfold State.pendantOn
  split
  · split <;> simp [standstillOf]
  · split <;> simp [standstillOf]
  · rfl

theorem pendantOff_standstill (s : State) (i : Fin 16) :
    standstillOf (s.pendantOff i).lines = standstillOf s.lines := by
  unfold State.pendantOff
  split <;> split <;> simp [standstillOf]

theorem panelPress_standstill (s : State) (i : Fin 16) :
    standstillOf (s.panelPress i).lines = standstillOf s.lines := by
  unfold State.panelPress
  split <;> rfl

theorem becameActive_standstill (s : State) (i : Fin 16) :
    standstillOf (s.becameActive i).lines = standstillOf s.lines := by
  unfold State.becameActive
  split
  · rw [stopPress_lines]
  · split
    · exact ackPress_standstill s
    · cases s.straps.role with
      | lift =>
        dsimp only
        split
        · exact pendantOn_standstill s i
        · split
          · rfl
          · split <;> rfl
      | hatch => exact panelPress_standstill s i
      | cab | beacon => rfl

theorem becameInactive_standstill (s : State) (i : Fin 16) :
    standstillOf (s.becameInactive i).lines = standstillOf s.lines := by
  unfold State.becameInactive
  cases s.straps.role with
  | lift =>
    dsimp only
    split
    · exact pendantOff_standstill s i
    · rfl
  | cab | hatch | beacon => rfl

theorem filterExpiry_standstill (s : State) (i : Fin 16) :
    standstillOf (s.filterExpiry i).lines = standstillOf s.lines := by
  unfold State.filterExpiry
  dsimp only
  split
  · exact becameActive_standstill ..
  · exact becameInactive_standstill ..

theorem takeLatches_standstill (s : State) : standstillOf s.takeLatches.lines = standstillOf s.lines := by
  unfold State.takeLatches
  dsimp only
  split
  · rfl
  · rw [touchRequest_lines]; rfl
  · rw [touchRequest_lines]; rfl
  · rfl

/-! ### Every command -/

/-- The commands that set STANDSTILL and its timer: the pulse, the timer's end and the resets. -/
def isStandstillEvent : Instr → Bool
  | .roadSpeedPulse | .standstillTimer | .powerOnReset _ | .externalReset _ => true
  | _ => false

theorem exec_leaves_standstill {c : Instr} (h : isStandstillEvent c = false) (s : State) :
    Leaves standstillOf s (exec c s) := by
  by_cases hl : isLineEvent c = false
  · exact fun t ht => standstillOf_of_besideRequests (exec_leaves_besideRequests hl s t ht)
  · cases c with
    | rawInputChange i closed =>
      refine leaves_next ?_
      split <;> rfl
    | inputFilterExpiry i =>
      refine leaves_finish ?_
      split
      · exact filterExpiry_standstill ..
      · rfl
    | strokePulse =>
      refine leaves_finish ?_
      split <;> rfl
    | requestWindowTimer =>
      refine leaves_finish ?_
      split
      · exact takeLatches_standstill s
      · rfl
    | outputFaultLatch o k =>
      refine leaves_finish ?_
      unfold State.outputFault
      split
      · split <;> rfl
      · rfl
    | roadSpeedPulse | standstillTimer | powerOnReset | externalReset => cases h
    | _ => exact absurd rfl hl

theorem exec_roadSpeedPulse_cab {s : State} (h : s.straps.role = .cab) :
    exec .roadSpeedPulse s =
      .next (finish s { s with lines := { s.lines with standstill := false, standTimer := some standstillMs } }) := by
  change execRoadSpeedPulse s = _
  rw [execRoadSpeedPulse, if_pos h]

theorem exec_roadSpeedPulse_other {s : State} (h : s.straps.role ≠ .cab) :
    exec .roadSpeedPulse s = .next (finish s s) := by
  change execRoadSpeedPulse s = _
  rw [execRoadSpeedPulse, if_neg h]

theorem exec_standstillTimer_cab {s : State} (h : s.straps.role = .cab) (ht : s.lines.standTimer ≠ none) :
    exec .standstillTimer s =
      .next (finish s { s with lines := { s.lines with standstill := true, standTimer := none } }) := by
  change execStandstillTimer s = _
  obtain ⟨ms, hms⟩ := Option.ne_none_iff_exists'.1 ht
  rw [execStandstillTimer, h, hms]

/-- Both resets leave STANDSTILL false, and its timer started under a CAB's straps. -/
theorem restarted_standstill (s : State) {p : StrapPins} (h : p.role = 0) (log : LogUnit) :
    standstillOf (s.restarted p log).lines = (false, some standstillMs) := by
  have hrole : (StrapPins.sample p).role = .cab := by rw [StrapPins.sample, h]; rfl
  simp only [State.restarted, LineUnit.restart, hrole, standstillOf]
  rfl

theorem standstill_not_mem_condsOf {r : Role} (h : r ≠ .cab) : Cond.standstill ∉ condsOf (some r) := by
  cases r with
  | cab => exact absurd rfl h
  | lift | hatch | beacon => decide

/-- Settles O39: the pulse, the timer's end and the resets by their meanings, and every other command by what it leaves
of the line unit. -/
theorem standstillFollowsThePulses : Obligations.StandstillFollowsThePulses := by
  unfold Obligations.StandstillFollowsThePulses
  refine ⟨fun r => standstill_not_mem_condsOf,
    fun s => ⟨fun h => ⟨exec_roadSpeedPulse_cab h, exec_standstillTimer_cab h⟩, exec_roadSpeedPulse_other, fun p hp => ?_⟩,
    fun c s t h hpulse htimer hpower hreset => ?_⟩
  · obtain ⟨hstand, hms⟩ := Prod.mk.inj (restarted_standstill s hp State.reset.log)
    obtain ⟨hstand', hms'⟩ := Prod.mk.inj (restarted_standstill s hp s.log.cutOpen)
    exact ⟨_, _, rfl, rfl, hstand, hms, hstand', hms'⟩
  · have hc : isStandstillEvent c = false := by
      cases c with
      | roadSpeedPulse => exact absurd rfl hpulse
      | standstillTimer => exact absurd rfl htimer
      | powerOnReset p => exact absurd rfl (hpower p)
      | externalReset p => exact absurd rfl (hreset p)
      | _ => rfl
    exact Prod.mk.inj (exec_leaves_standstill hc s t h)

end Sys2Proof.LocalLines
end

section
/-! Proofs about the actuator channels (chapter 7): the command table (R142), one equation for each state in which a
command is taken, and for each command the states in which it is refused. -/

namespace Sys2Proof.Channels

open Sys2Proof.Machine Sys2Proof.Laws

/-! ## Commands that are taken -/

theorem command_openCmd_closed {c : ChanRec} (h : c.state = .closed) :
    c.command .openCmd = some (ChanRec.enter .opening (some openingMs)) := by
  simp only [ChanRec.command, h]

theorem command_openCmd_resting {c : ChanRec} (h : c.state = .resting) :
    c.command .openCmd = some { c with held := true } := by
  simp only [ChanRec.command, h]

theorem command_drive_standing {c : ChanRec} (d : Dir) (h : c.state = .opened ∨ c.state = .holding) :
    c.command (.drive d) = some (ChanRec.enter (.driving d) none) := by
  rcases h with h | h <;> simp only [ChanRec.command, h]

/-- DRIVE to a DRIVING channel is taken for its own direction alone. -/
theorem command_drive_driving {c : ChanRec} {d' : Dir} (d : Dir) (h : c.state = .driving d') :
    c.command (.drive d) = if d = d' then some c else none := by
  simp only [ChanRec.command, h]

theorem command_hold_driving {c : ChanRec} {d : Dir} (h : c.state = .driving d) :
    c.command .hold = some (ChanRec.enter .holding none) := by
  simp only [ChanRec.command, h]

theorem command_hold_standing {c : ChanRec} (h : c.state = .opened ∨ c.state = .holding) :
    c.command .hold = some c := by
  rcases h with h | h <;> simp only [ChanRec.command, h]

theorem command_relieve_active {c : ChanRec}
    (h : (∃ d, c.state = .driving d) ∨ c.state = .opening ∨ c.state = .opened ∨ c.state = .holding) :
    c.command .relieve = some (ChanRec.enter .relieving (some relievingMs)) := by
  rcases h with ⟨d, h⟩ | h | h | h <;> simp only [ChanRec.command, h]

theorem command_relieve_resting {c : ChanRec} (h : c.state = .resting) :
    c.command .relieve = some { c with held := false } := by
  simp only [ChanRec.command, h]

theorem command_relieve_idle {c : ChanRec} (h : c.state = .closed ∨ c.state = .relieving ∨ c.state = .faulted) :
    c.command .relieve = some c := by
  rcases h with h | h | h <;> simp only [ChanRec.command, h]

/-! ## Commands that are refused -/

theorem command_openCmd_refused {c : ChanRec} (hclosed : c.state ≠ .closed) (hresting : c.state ≠ .resting) :
    c.command .openCmd = none := by
  cases h : c.state with
  | closed => exact absurd h hclosed
  | resting => exact absurd h hresting
  | opening | opened | driving | holding | relieving | faulted => simp only [ChanRec.command, h]

theorem command_drive_refused {c : ChanRec} {d : Dir} (hopened : c.state ≠ .opened) (hholding : c.state ≠ .holding)
    (hdriving : c.state ≠ .driving d) : c.command (.drive d) = none := by
  cases h : c.state with
  | opened => exact absurd h hopened
  | holding => exact absurd h hholding
  | driving d' =>
    have hd : d ≠ d' := fun e => hdriving (e ▸ h)
    rw [command_drive_driving d h, if_neg hd]
  | closed | opening | relieving | resting | faulted => simp only [ChanRec.command, h]

theorem command_hold_refused {c : ChanRec} (hdriving : ∀ d, c.state ≠ .driving d) (hopened : c.state ≠ .opened)
    (hholding : c.state ≠ .holding) : c.command .hold = none := by
  cases h : c.state with
  | driving d => exact absurd h (hdriving d)
  | opened => exact absurd h hopened
  | holding => exact absurd h hholding
  | closed | opening | relieving | resting | faulted => simp only [ChanRec.command, h]

/-! ## What a refusal leaves -/

theorem after_of_refused {c : ChanRec} {cmd : ChanCmd} (h : c.command cmd = none) : c.after cmd = c := by
  rw [ChanRec.after, h, Option.getD_none]

theorem set_get_self (u : ChanUnit) (x : Chan) : u.set x (u.get x) = u := by
  cases x <;> rfl

/-- A refused command leaves the whole node as it was. -/
theorem command_of_refused {s : State} {x : Chan} {cmd : ChanCmd} (h : (s.chans.get x).command cmd = none) :
    s.command x cmd = s := by
  rw [State.command, after_of_refused h, set_get_self]

/-! ## The end of a rest -/

/-- With no held OPEN the settle timer takes a RESTING channel to CLOSED (R141). -/
theorem settled_resting_unheld {c : ChanRec} (h : c.state = .resting) (hheld : c.held = false)
    (ht : c.settle ≠ none) : c.settled = ChanRec.closed := by
  obtain ⟨ms, hms⟩ := Option.ne_none_iff_exists'.1 ht
  simp [ChanRec.settled, hms, h, hheld, ChanRec.enter, ChanRec.closed]

/-- Settles O41: the states of the table by the equation for each command, a refusal by the record it puts back, and the
relieved RESTING channel by its settle timer with the mark clear. -/
theorem channelTakesCommandsByItsTable : Obligations.ChannelTakesCommandsByItsTable := by
  unfold Obligations.ChannelTakesCommandsByItsTable
  intro c
  refine ⟨fun h => ⟨_, command_openCmd_closed h, rfl⟩, command_openCmd_resting, command_openCmd_refused,
    fun d h => ⟨_, command_drive_standing d h, rfl⟩, fun d h => ?_, fun _ => command_drive_refused,
    fun _ h => ⟨_, command_hold_driving h, rfl⟩, command_hold_standing, command_hold_refused,
    fun h => ⟨_, command_relieve_active h, rfl⟩, command_relieve_resting, command_relieve_idle, fun h ht => ?_,
    fun _ _ _ => command_of_refused⟩
  · rw [command_drive_driving d h, if_pos rfl]
  · have unheld : ({ c with held := false } : ChanRec).settled = ChanRec.closed := settled_resting_unheld h rfl ht
    exact ⟨_, command_relieve_resting h, unheld⟩

end Sys2Proof.Channels
end

section
/-! Proofs about halt and clear (chapter 8): what a processed HALT makes of the node's halt state, and the record it
writes (R153). -/

namespace Sys2Proof.HaltAndClear

open Sys2Proof.Machine Sys2Proof.Laws

/-! ## The halt state -/

theorem raised_clear {h : HaltState} (n : Node) (hl : h.latch = none) : h.raised n = { latch := some n, count := 1 } := by
  simp only [HaltState.raised, hl]

theorem raised_latched {h : HaltState} {o : Node} (n : Node) (hl : h.latch = some o) :
    h.raised n = { latch := some o, count := if h.count < 15 then h.count + 1 else 15 } := by
  have capped : min 15 (h.count + 1) = if h.count < 15 then h.count + 1 else 15 := by split <;> omega
  simp only [HaltState.raised, hl, capped]

/-! ## REQUEST records -/

/-- The REQUEST record a node writes at this moment (R188). -/
def requestRec (s : State) (m : Option Manoeuvre) (o : RunOutcome) (c : Cause) : LogRec :=
  { kind := .request, run := s.runs.counter, depth := 0, man := m, idx := none, outcome := o, cause := some c
    retries := 0, startTag := s.log.tag, endTag := some s.log.tag, height := none }

theorem writeRequest_eq_writeRec (s : State) (m : Option Manoeuvre) (o : RunOutcome) (c : Cause) :
    s.writeRequest m o c = s.writeRec (requestRec s m o c) := rfl

/-- A stack that ends leaves the run counter and the time tag, so a REQUEST record written behind it is the same. -/
theorem requestRec_endStack (s : State) (out : RunOutcome) (m : Option Manoeuvre) (o : RunOutcome) (c : Cause) :
    requestRec (s.endStack out) m o c = requestRec s m o c := by
  have counter : (s.endStack out).runs.counter = s.runs.counter := by rw [(endStack_runs s out).1]
  obtain ⟨-, -, -, -, -, -, -, tag, -⟩ := outer_fields (endStack_outer s out)
  simp only [requestRec, counter, tag]

/-- The youngest record of the log stands in the ring. -/
theorem exists_slot_of_youngest {l : LogUnit} {r : LogRec} (h : l.youngest = some r) : ∃ x ∈ l.slots, x.data = r := by
  obtain ⟨x, hx, hr⟩ := Option.map_eq_some_iff.1 h
  exact ⟨x, List.mem_of_getLast? hx, hr⟩

/-! ## What a HALT does to a node -/

/-- The node with the claim list emptied and the halt state raised, the rest of it not yet halted. -/
def withHalt (s : State) (n : Node) : State := { s with table := { claims := [], halt := s.table.halt.raised n } }

theorem halt_eq (s : State) (n : Node) (src : StopSource) :
    s.halt n src = (((withHalt s n).endStack .halted).dropRequests).writeRequest none .halted src.cause := rfl

theorem halt_table (s : State) (n : Node) (src : StopSource) :
    (s.halt n src).table = { claims := [], halt := s.table.halt.raised n } := by
  obtain ⟨-, -, -, htable, -⟩ := outer_fields (endStack_outer (withHalt s n) .halted)
  exact htable

theorem halt_run (s : State) (n : Node) (src : StopSource) : (s.halt n src).runs.run = none := by
  obtain ⟨hrun, -⟩ := endStack_spec (withHalt s n) .halted
  exact hrun

/-- The REQUEST record is the last that a HALT writes, behind those of the stack it ends (assumption 12). -/
theorem halt_youngest (s : State) (n : Node) (src : StopSource) :
    (s.halt n src).log.youngest = some (requestRec s none .halted src.cause) := by
  have unmoved : requestRec ((withHalt s n).endStack .halted).dropRequests none .halted src.cause =
      requestRec s none .halted src.cause := requestRec_endStack (withHalt s n) .halted none .halted src.cause
  rw [halt_eq, writeRequest_eq_writeRec, writeRec_youngest, unmoved]

/-- A MEMBER that finds a HALT at the head of its queue is halted by it (R17, R153). -/
theorem exec_halt {s : State} {n : Node} {src : StopSource} {m : BitVec 8} (hm : s.member.mstate = .member)
    (hhead : s.headIs .halt n (haltPayload src) m) : exec .halt s = .next (finish s (s.popped.halt n src)) := by
  have hpopped : s.popped.isMember = true := beq_iff_eq.2 hm
  change execHalt s = _
  simp only [execHalt, process_head hhead, State.takeHalt, readHaltPayload_haltPayload, hpopped, if_true]

/-- With its run stack ended the node's engines make no move, so the log stays as the HALT left it. -/
theorem finish_halt_log (old s : State) (n : Node) (src : StopSource) :
    (finish old (s.halt n src)).log = (s.halt n src).log := by
  obtain ⟨-, -, -, hlog⟩ := inner_fields (finish_inner_of_no_run (old := old) (halt_run s n src))
  exact hlog

/-- Settles O18: the halt state by its two cases, the record as the youngest of the log, which no engine moves on. -/
theorem haltSetsTheLatch : Obligations.HaltSetsTheLatch := by
  unfold Obligations.HaltSetsTheLatch
  intro s n src m hm hhead
  refine ⟨finish s (s.popped.halt n src), exec_halt hm hhead, ?_, ?_⟩
  · rw [finish_table, halt_table]
    change s.table.halt.raised n = _
    cases hlatch : s.table.halt.latch with
    | none => exact raised_clear n hlatch
    | some o => exact raised_latched n hlatch
  · intro record
    have hrecord : record = requestRec s none .halted src.cause := by cases src <;> rfl
    have hyoungest : (finish s (s.popped.halt n src)).log.youngest = some record := by
      rw [finish_halt_log, halt_youngest, hrecord]
      rfl
    exact ⟨exists_slot_of_youngest hyoungest, fun _ => hyoungest⟩

end Sys2Proof.HaltAndClear
end

section
/-! Proofs about the processing of a frame (R17): one equation for the ten commands, what a roster entry reads after it is
replaced, and what MEMBERs with the same replica make of the same frame (R57). -/

namespace Sys2Proof.FrameProcessing

open Sys2Proof.Machine Sys2Proof.Laws

/-! ## The ten commands -/

/-- The processing of a frame by its kind. -/
def takeFrame : Kind → RxRec → State → State
  | .halt => State.takeHalt
  | .clear => State.takeClear
  | .evict => State.takeEvict
  | .yield => State.takeYield
  | .claim => State.takeClaim
  | .snapshot => State.takeSnapshot
  | .join => State.takeJoin
  | .posture => State.takePosture
  | .probe => State.takeProbe
  | .reply => State.takeReply

theorem exec_frameCommand (k : Kind) (s : State) :
    exec (frameCommand k) s = .next (finish s (s.process k (takeFrame k))) := by
  cases k <;> rfl

/-- The frame at the head is processed on the node without it. -/
theorem process_of_head {s : State} {r : RxRec} (h : s.link.rx.head? = some r) (f : RxRec → State → State) :
    s.process r.kind f = f r s.popped :=
  process_head (n := r.sender) (p := r.payload) (m := r.noted) h f

theorem exec_of_head {s : State} {r : RxRec} (h : s.link.rx.head? = some r) :
    exec (frameCommand r.kind) s = .next (finish s (takeFrame r.kind r s.popped)) := by
  rw [exec_frameCommand, process_of_head h]

/-! ## Roster entries -/

theorem setEntry_entry (s : State) (n k : Node) (e : Entry) :
    (s.setEntry n e).entry k = if k = n then e else s.entry k := by
  by_cases h : k = n
  · subst h; simp [State.entry]
  · have hv : n.val ≠ k.val := fun hn => h (Fin.ext hn.symm)
    simp [State.entry, h, hv]

@[simp] theorem setEntry_entry_self (s : State) (n : Node) (e : Entry) : (s.setEntry n e).entry n = e := by
  simp [setEntry_entry]

theorem setEntry_entry_ne (s : State) {n k : Node} (e : Entry) (h : k ≠ n) : (s.setEntry n e).entry k = s.entry k := by
  simp [setEntry_entry, h]

theorem setOwed_owed (s : State) (n k : Node) (b : Bool) :
    (s.setOwed n b).member.owed[k] = if k = n then b else s.member.owed[k] := by
  by_cases h : k = n
  · subst h; simp
  · have hv : n.val ≠ k.val := fun hn => h (Fin.ext hn.symm)
    simp [h, hv]

@[simp] theorem setOwed_entry (s : State) (n k : Node) (b : Bool) : (s.setOwed n b).entry k = s.entry k := rfl

@[simp] theorem popped_entry (s : State) (n : Node) : s.popped.entry n = s.entry n := rfl

theorem entry_of_member {s t : State} (h : t.member = s.member) (n : Node) : t.entry n = s.entry n := by
  rw [State.entry, h, State.entry]

theorem isMember_iff (s : State) : s.isMember = true ↔ s.member.mstate = .member := beq_iff_eq

theorem isMember_of {s : State} (h : s.member.mstate = .member) : s.isMember = true := beq_iff_eq.2 h

/-! ## The replica -/

/-- What the nodes of a body hold alike (R57). -/
def replica (s : State) : ClaimUnit × Option (Fin 8) × Vector Bool 8 × (Node → EState × Option RoleSide) :=
  (s.table, s.member.bodyFit, s.member.owed, fun n => ((s.entry n).state, (s.entry n).role))

theorem sameReplica_iff (s t : State) : sameReplica s t ↔ replica s = replica t := by
  simp only [sameReplica, replica, Prod.mk.injEq, funext_iff]

theorem replica_of_units {s t : State} (htable : t.table = s.table) (hmember : t.member = s.member) :
    replica t = replica s := by
  simp only [replica, htable, hmember, entry_of_member hmember]

theorem replica_of_outer {s t : State} (h : outer t = outer s) : replica t = replica s := by
  obtain ⟨-, -, hmember, htable, -⟩ := outer_fields h
  exact replica_of_units htable hmember

@[simp] theorem finish_replica (old s : State) : replica (finish old s) = replica s :=
  replica_of_outer (finish_outer old s)

@[simp] theorem popped_replica (s : State) : replica s.popped = replica s := rfl

@[simp] theorem queue_replica (s : State) (f : TxFrame) : replica (s.queue f) = replica s :=
  replica_of_outer (queue_outer s f)

@[simp] theorem dropPending_outer (s : State) (k : Kind) (x : Option Node) : outer (s.dropPending k x) = outer s := by
  unfold State.dropPending
  split <;> simp

section

variable {s s' : State}

theorem table_eq (h : replica s = replica s') : s.table = s'.table := (Prod.mk.inj h).1

theorem bodyFit_eq (h : replica s = replica s') : s.member.bodyFit = s'.member.bodyFit :=
  (Prod.mk.inj (Prod.mk.inj h).2).1

theorem owed_eq (h : replica s = replica s') : s.member.owed = s'.member.owed :=
  (Prod.mk.inj (Prod.mk.inj (Prod.mk.inj h).2).2).1

theorem entry_eq (h : replica s = replica s') (n : Node) :
    (s.entry n).state = (s'.entry n).state ∧ (s.entry n).role = (s'.entry n).role :=
  Prod.mk.inj (congrFun (Prod.mk.inj (Prod.mk.inj (Prod.mk.inj h).2).2).2 n)

theorem replica_setEntry (h : replica s = replica s') (n : Node) {e e' : Entry} (hstate : e.state = e'.state)
    (hrole : e.role = e'.role) : replica (s.setEntry n e) = replica (s'.setEntry n e') := by
  rw [← sameReplica_iff]
  refine ⟨(table_eq h :), (bodyFit_eq h :), (owed_eq h :), fun k => ?_⟩
  by_cases hk : k = n
  · simp [hk, hstate, hrole]
  · simp only [setEntry_entry_ne _ _ hk]
    exact entry_eq h k

/-- An entry replaced by one of the same state and role leaves the replica. -/
theorem replica_setEntry_same {n : Node} {e : Entry} (hstate : e.state = (s.entry n).state)
    (hrole : e.role = (s.entry n).role) : replica (s.setEntry n e) = replica s := by
  rw [← sameReplica_iff]
  refine ⟨rfl, rfl, rfl, fun k => ?_⟩
  by_cases hk : k = n
  · simp [hk, hstate, hrole]
  · simp only [setEntry_entry_ne _ _ hk, and_self]

theorem replica_setOwed (h : replica s = replica s') (n : Node) (b : Bool) :
    replica (s.setOwed n b) = replica (s'.setOwed n b) := by
  rw [← sameReplica_iff]
  exact ⟨(table_eq h :), (bodyFit_eq h :), by simp [owed_eq h], (entry_eq h :)⟩

/-- Only the list counts for what removing a record leaves. -/
theorem removeRecord_table_congr (h : s.table = s'.table) (n : Node) :
    (s.removeRecord n).table = (s'.removeRecord n).table := by
  rw [removeRecord_table, removeRecord_table, h]

/-- Two units that were alike and are changed alike in the table alone stay alike. -/
theorem replica_withTable {t t' : State} (h : replica s = replica s') (htable : t.table = t'.table)
    (hm : t.member = s.member) (hm' : t'.member = s'.member) : replica t = replica t' := by
  have hs : replica { s with table := t.table } = replica { s' with table := t.table } := by
    rw [← sameReplica_iff]
    exact ⟨rfl, (bodyFit_eq h :), (owed_eq h :), (entry_eq h :)⟩
  calc replica t = replica { s with table := t.table } := replica_of_units rfl hm
    _ = replica { s' with table := t.table } := hs
    _ = replica t' := (replica_of_units (t := t') (s := { s' with table := t.table }) htable.symm hm').symm

theorem replica_removeFor (h : replica s = replica s') (n : Node) (v v' : Verdict) :
    replica (s.removeFor n v) = replica (s'.removeFor n v') := by
  obtain ⟨htable, hmember⟩ := removeFor_replica s n v
  obtain ⟨htable', hmember'⟩ := removeFor_replica s' n v'
  refine replica_withTable h ?_ hmember hmember'
  rw [htable, htable', removeRecord_table_congr (table_eq h)]

/-! ## Frame by frame -/

/-- A node that left the body is no MEMBER. -/
theorem leave_not_member (s : State) (d : Departure) (c : Cause) : (s.leave d c).member.mstate ≠ .member := by
  rw [leave_mstate]
  exact departure_not_member d

theorem halt_member (s : State) (n : Node) (src : StopSource) : (s.halt n src).member = s.member := by
  obtain ⟨-, -, hmember, -⟩ := outer_fields (endStack_outer (HaltAndClear.withHalt s n) .halted)
  exact hmember

theorem replica_takeHalt (h : replica s = replica s') (hm : s.isMember = true) (hm' : s'.isMember = true) (r : RxRec) :
    replica (s.takeHalt r) = replica (s'.takeHalt r) := by
  unfold State.takeHalt
  cases readHaltPayload r.payload with
  | none => exact h
  | some src =>
    simp only [hm, hm', if_true]
    refine replica_withTable h ?_ (halt_member ..) (halt_member ..)
    rw [HaltAndClear.halt_table, HaltAndClear.halt_table, table_eq h]

theorem clears_congr (h : replica s = replica s') (n : Node) : s.clears n = s'.clears n := by
  unfold State.clears
  rw [table_eq h]
  cases s'.table.halt.latch with
  | none => rfl
  | some o => dsimp only; rw [(entry_eq h n).2, (entry_eq h o).1]

theorem clearHalt_units (s : State) :
    s.clearHalt.table = { s.table with halt := HaltState.off } ∧ s.clearHalt.member = s.member := by
  unfold State.clearHalt
  dsimp only
  split
  · obtain ⟨-, -, hmember, htable, -⟩ := outer_fields
      (queue_outer { s with table := { s.table with halt := HaltState.off } } (.halt _))
    exact ⟨htable, hmember⟩
  · exact ⟨rfl, rfl⟩

theorem replica_takeClear (h : replica s = replica s') (hm : s.isMember = true) (hm' : s'.isMember = true) (r : RxRec) :
    replica (s.takeClear r) = replica (s'.takeClear r) := by
  unfold State.takeClear
  cases readEmptyPayload r.payload with
  | none => exact h
  | some _ =>
    simp only [hm, hm', Bool.true_and, clears_congr h]
    split
    · obtain ⟨htable, hmember⟩ := clearHalt_units s
      obtain ⟨htable', hmember'⟩ := clearHalt_units s'
      exact replica_withTable h (by rw [htable, htable', table_eq h]) hmember hmember'
    · exact h

theorem replica_takeYield (h : replica s = replica s') (hm : s.isMember = true) (hm' : s'.isMember = true) (r : RxRec) :
    replica (s.takeYield r) = replica (s'.takeYield r) := by
  unfold State.takeYield
  cases readEmptyPayload r.payload with
  | none => exact h
  | some _ =>
    simp only [hm, hm', if_true]
    exact replica_removeFor h _ _ _

theorem admission_congr (h : replica s = replica s') (n : Node) (m : ClaimMsg) : s.admission n m = s'.admission n m := by
  simp only [ClaimTable.admission_eq, table_eq h, (entry_eq h n).1]

theorem replica_takeClaim (h : replica s = replica s') (hm : s.isMember = true) (hm' : s'.isMember = true) (r : RxRec) :
    replica (s.takeClaim r) = replica (s'.takeClaim r) := by
  unfold State.takeClaim
  cases readClaimPayload r.payload with
  | none => exact h
  | some m =>
    simp only [hm, hm', if_true]
    cases ha : s.admission r.sender m with
    | none =>
      obtain ⟨htable, hmember⟩ := ClaimTable.claimFrom_admitted_replica ha
      obtain ⟨htable', hmember'⟩ := ClaimTable.claimFrom_admitted_replica ((admission_congr h _ _).symm.trans ha)
      refine replica_withTable h ?_ hmember hmember'
      rw [htable, htable', State.admitted, State.admitted, table_eq h]
    | some cause =>
      obtain ⟨htable, hmember⟩ := ClaimTable.claimFrom_refused_replica ha
      obtain ⟨htable', hmember'⟩ := ClaimTable.claimFrom_refused_replica ((admission_congr h _ _).symm.trans ha)
      exact replica_withTable h (by rw [htable, htable', table_eq h]) hmember hmember'

/-- A MEMBER's processing of an EVICT of another node, in the replica. -/
theorem replica_evict (h : replica s = replica s') {x : Node} (hx : x ≠ s.own) (hx' : x ≠ s'.own) :
    replica (s.evict x) = replica (s'.evict x) := by
  unfold State.evict
  rw [if_neg hx, if_neg hx', (entry_eq h x).1]
  have removed := replica_setOwed
    (replica_setEntry h x (e := (s.entry x).leave .absent (s.entry x).role)
      (e' := (s'.entry x).leave .absent (s'.entry x).role) rfl (entry_eq h x).2) x false
  have dropped := (replica_of_outer (dropPending_outer _ .evict (some x))).trans
    (removed.trans (replica_of_outer (dropPending_outer _ .evict (some x))).symm)
  cases (s'.entry x).state with
  | member | joining => exact replica_removeFor dropped _ _ _
  | unknown | absent | barred => exact h

theorem own_of_evict_member {x : Node} (h : (s.evict x).member.mstate = .member) : x ≠ s.own := by
  rintro rfl
  rw [State.evict, if_pos rfl] at h
  exact leave_not_member _ _ _ h

theorem replica_takeEvict (h : replica s = replica s') (hm : s.isMember = true) (hm' : s'.isMember = true) (r : RxRec)
    (ht : (s.takeEvict r).member.mstate = .member) (ht' : (s'.takeEvict r).member.mstate = .member) :
    replica (s.takeEvict r) = replica (s'.takeEvict r) := by
  unfold State.takeEvict at ht ht' ⊢
  cases hx : readEvictPayload r.payload with
  | none => exact h
  | some x =>
    simp only [hx, hm, hm', if_true] at ht ht' ⊢
    exact replica_evict h (own_of_evict_member ht) (own_of_evict_member ht')

theorem replica_snapOther (h : replica s = replica s') (x : Node) : replica (s.snapOther x) = replica (s'.snapOther x) := by
  unfold State.snapOther
  rw [(entry_eq h x).1]
  apply replica_setOwed
  split
  · exact replica_setEntry h x rfl (entry_eq h x).2
  · exact h

theorem replica_takeSnapshot (h : replica s = replica s') (hm : s.isMember = true) (hm' : s'.isMember = true) (r : RxRec)
    (hx : ∀ m, readSnapPayload r.payload = some m → m.subject ≠ s.own ∧ m.subject ≠ s'.own) :
    replica (s.takeSnapshot r) = replica (s'.takeSnapshot r) := by
  unfold State.takeSnapshot
  cases hp : readSnapPayload r.payload with
  | none => exact h
  | some m =>
    obtain ⟨hown, hown'⟩ := hx m hp
    simp only [if_neg hown, if_neg hown', hm, hm', if_true]
    exact replica_snapOther h _

theorem joinState_congr (h : replica s = replica s') (n : Node) (m : JoinMsg) : s.joinState n m = s'.joinState n m := by
  have holders : s.holdersOfRole n m.role = s'.holdersOfRole n m.role := by
    simp only [State.holdersOfRole, fun k => (entry_eq h k).1, fun k => (entry_eq h k).2]
  rw [State.joinState, bodyFit_eq h, holders, State.joinState]

theorem replica_joinMember (h : replica s = replica s') (n : Node) (m : JoinMsg) :
    replica (s.joinMember n m) = replica (s'.joinMember n m) := by
  unfold State.joinMember
  rw [(entry_eq h n).1, joinState_congr h]
  apply replica_setOwed
  refine replica_setEntry ?_ n rfl rfl
  cases (s'.entry n).state with
  | member | joining => exact replica_removeFor h _ _ _
  | unknown | absent | barred => exact h

theorem replica_takeJoin (h : replica s = replica s') (hm : s.isMember = true) (hm' : s'.isMember = true) (r : RxRec)
    (ht : (s.takeJoin r).member.mstate = .member) (ht' : (s'.takeJoin r).member.mstate = .member) :
    replica (s.takeJoin r) = replica (s'.takeJoin r) := by
  unfold State.takeJoin at ht ht' ⊢
  cases hp : readJoinPayload r.payload with
  | none => exact h
  | some m =>
    simp only [hp, hm, hm', Bool.true_or, Bool.not_true, Bool.false_eq_true, if_false, if_true] at ht ht' ⊢
    split at ht
    · exact absurd ht (leave_not_member _ _ _)
    · split at ht'
      · exact absurd ht' (leave_not_member _ _ _)
      · rename_i hd hd'
        rw [if_neg hd, if_neg hd']
        exact replica_joinMember h _ _

theorem byPosture_replica (s : State) (n : Node) (m : PostureMsg) (noted : BitVec 8) :
    replica (s.byPosture n m noted) = replica s := by
  unfold State.byPosture
  dsimp only
  split
  · exact replica_setEntry_same rfl rfl
  · rw [queue_replica]
    exact replica_setEntry_same rfl rfl
  · exact replica_setEntry_same rfl rfl
  · exact replica_setEntry_same rfl rfl
  · exact replica_setEntry_same rfl rfl

theorem checkDiverged_of_member (h : s.checkDiverged.member.mstate = .member) : s.checkDiverged = s := by
  unfold State.checkDiverged at h ⊢
  split at h
  · exact absurd h (leave_not_member _ _ _)
  · rename_i hd
    rw [if_neg hd]

/-- A POSTURE changes no replica of a node that stays MEMBER. -/
theorem takePosture_replica (hm : s.isMember = true) (r : RxRec) (ht : (s.takePosture r).member.mstate = .member) :
    replica (s.takePosture r) = replica s := by
  unfold State.takePosture at ht ⊢
  cases hp : readPosturePayload r.payload with
  | none => rfl
  | some m =>
    simp only [hp, hm, Bool.true_or, Bool.not_true, Bool.false_eq_true, if_false, if_true] at ht ⊢
    split at ht
    · rename_i hown
      rw [if_pos hown]
      split at ht
      · exact absurd ht (leave_not_member _ _ _)
      · rename_i hserial
        rw [if_neg hserial, checkDiverged_of_member ht]
    · rename_i hown
      rw [if_neg hown, checkDiverged_of_member ht, byPosture_replica]

theorem takeProbe_replica (s : State) (r : RxRec) : replica (s.takeProbe r) = replica s := by
  unfold State.takeProbe
  split
  · rfl
  · split <;> simp

theorem takeReply_replica (s : State) (r : RxRec) : replica (s.takeReply r) = replica s := by
  unfold State.takeReply
  split
  · rfl
  · split <;> rfl

/-- The processing of a frame by two MEMBERs that stay MEMBER depends on their replicas alone. -/
theorem replica_takeFrame (h : replica s = replica s') (hm : s.isMember = true) (hm' : s'.isMember = true) (r : RxRec)
    (hx : ∀ m, r.kind = .snapshot → readSnapPayload r.payload = some m → m.subject ≠ s.own ∧ m.subject ≠ s'.own)
    (ht : (takeFrame r.kind r s).member.mstate = .member) (ht' : (takeFrame r.kind r s').member.mstate = .member) :
    replica (takeFrame r.kind r s) = replica (takeFrame r.kind r s') := by
  cases hk : r.kind <;> rw [hk] at ht ht'
  case halt => exact replica_takeHalt h hm hm' r
  case clear => exact replica_takeClear h hm hm' r
  case evict => exact replica_takeEvict h hm hm' r ht ht'
  case yield => exact replica_takeYield h hm hm' r
  case claim => exact replica_takeClaim h hm hm' r
  case snapshot => exact replica_takeSnapshot h hm hm' r fun m => hx m hk
  case join => exact replica_takeJoin h hm hm' r ht ht'
  case posture => exact (takePosture_replica hm r ht).trans (h.trans (takePosture_replica hm' r ht').symm)
  case probe => exact (takeProbe_replica s r).trans (h.trans (takeProbe_replica s' r).symm)
  case reply => exact (takeReply_replica s r).trans (h.trans (takeReply_replica s' r).symm)

end

/-- Settles O60, by the kind of the frame: in each the two nodes read the same replica and write the same one. -/
theorem membersProcessFramesAlike : Obligations.MembersProcessFramesAlike := by
  unfold Obligations.MembersProcessFramesAlike
  intro s s' t t' r hm hm' hsame hhead hhead' hx ht ht' htm htm'
  rw [exec_of_head hhead] at ht
  rw [exec_of_head hhead'] at ht'
  obtain rfl := Host.Outcome.next.inj ht
  obtain rfl := Host.Outcome.next.inj ht'
  rw [finish_member] at htm htm'
  rw [sameReplica_iff, finish_replica, finish_replica]
  exact replica_takeFrame (s := s.popped) (s' := s'.popped) ((sameReplica_iff s s').1 hsame) (isMember_of hm)
    (isMember_of hm') r hx htm htm'

end Sys2Proof.FrameProcessing
end

section
/-! What the operations of the run engine and the step engine leave of the run stack and of the channels. -/

namespace Sys2Proof.Engines

open Sys2Proof.Machine Sys2Proof.Laws

/-! ## Operations that leave the run stack -/

@[simp] theorem closeRec_runs (s : State) (o : RunOutcome) (c : Option Cause) : (s.closeRec o c).runs = s.runs := rfl

@[simp] theorem stepTo_runs (s : State) (c : CurStep) (x : StepState) : (s.stepTo c x).runs = s.runs := rfl

@[simp] theorem stepEnds_runs (s : State) (c : CurStep) (o : RunOutcome) (x : Option Cause) :
    (s.stepEnds c o x).runs = s.runs := rfl

@[simp] theorem stepDone_runs (s : State) (c : CurStep) (d : StepDef) : (s.stepDone c d).runs = s.runs := rfl

@[simp] theorem stepSkipped_runs (s : State) (c : CurStep) : (s.stepSkipped c).runs = s.runs := rfl

@[simp] theorem toGate_runs (s : State) (c : CurStep) (g : Gate) : (s.toGate c g).runs = s.runs := rfl

@[simp] theorem driveStep_runs (s : State) (c : CurStep) (d : StepDef) : (s.driveStep c d).runs = s.runs := rfl

@[simp] theorem stallStep_runs (s : State) (c : CurStep) (d : StepDef) : (s.stallStep c d).runs = s.runs := rfl

@[simp] theorem queue_runs (s : State) (f : TxFrame) : (s.queue f).runs = s.runs := (inner_fields (queue_inner s f)).1

@[simp] theorem queueYield_runs (s : State) : s.queueYield.runs = s.runs := queue_runs ..

@[simp] theorem queueClaim_runs (s : State) (m : Manoeuvre) : (s.queueClaim m).runs = s.runs := by
  unfold State.queueClaim
  split
  · exact queue_runs ..
  · rfl

@[simp] theorem arm_runs (s : State) (n : Nat) (a b : Bool) : (s.arm n a b).runs = s.runs := (arm_spec s n a b).1

@[simp] theorem openRec_runs (s : State) (n : Nat) : (s.openRec n).runs = s.runs := by
  unfold State.openRec
  split <;> rfl

@[simp] theorem failStep_runs (s : State) (c : CurStep) (d : StepDef) (x : Cause) (b : Bool) :
    (s.failStep c d x b).runs = s.runs := by
  unfold State.failStep
  dsimp only
  split
  · rfl
  · split <;> simp

@[simp] theorem enterOpening_runs (s : State) (c : CurStep) (d : StepDef) : (s.enterOpening c d).runs = s.runs := by
  unfold State.enterOpening
  dsimp only
  split <;> rfl

@[simp] theorem leaveArming_runs (s : State) (r : Run) (c : CurStep) (d : StepDef) :
    (s.leaveArming r c d).runs = s.runs := by
  unfold State.leaveArming
  split <;> simp

@[simp] theorem relieveOthers_runs (s : State) (c : Chan) : (s.relieveOthers c).runs = s.runs := by
  obtain ⟨u, hu, -⟩ := relieveOthers_spec s c
  rw [hu]

@[simp] theorem relieveUnnamed_runs (s : State) (m : Manoeuvre) : (s.relieveUnnamed m).runs = s.runs := by
  obtain ⟨u, hu, -⟩ := relieveUnnamed_spec s m
  rw [hu]

@[simp] theorem yieldStray_runs (s : State) : s.yieldStray.runs = s.runs := by
  unfold State.yieldStray
  split
  · rfl
  · exact queueYield_runs s

theorem startRecovery_runs {s t : State} (h : s.startRecovery = some t) : t.runs = s.runs := by
  unfold State.startRecovery at h
  split at h <;> cases h
  rfl

theorem armingMove_runs {s t : State} {r : Run} {c : CurStep} {d : StepDef} (h : s.armingMove r c d = some t) :
    t.runs = s.runs := by
  unfold State.armingMove at h
  cases hg : c.gate <;> simp only [hg] at h
  case check =>
    obtain rfl := Option.some.inj h
    split <;> simp
  case fence =>
    split at h
    · obtain rfl := Option.some.inj h; rfl
    · exact startRecovery_runs h
  case skip =>
    split at h
    · split at h <;> (obtain rfl := Option.some.inj h; rfl)
    · obtain rfl := Option.some.inj h; rfl
  case way =>
    split at h
    · obtain rfl := Option.some.inj h; exact leaveArming_runs ..
    · exact startRecovery_runs h

/-! ## Nothing drives -/

/-- No channel of the node is DRIVING. -/
def Still (s : State) : Prop := ∀ x, (s.chans.get x).state.isDriving = false

theorem Still.of_chans {s t : State} (hs : Still s) (h : t.chans = s.chans) : Still t := fun x => by
  rw [h]
  exact hs x

theorem letDown_not_driving {x : ChanState} (h : x.letDown = true) : x.isDriving = false := by
  cases x <;> simp_all [ChanState.letDown, ChanState.isDriving]

theorem still_of_letDown {s : State} (h : ∀ x, (s.chans.get x).state.letDown = true) : Still s :=
  fun x => letDown_not_driving (h x)

/-- No command but DRIVE makes a channel of a still node drive. -/
theorem Still.command {s : State} (hs : Still s) (c : Chan) {cmd : ChanCmd} (h : ∀ d, cmd ≠ .drive d) :
    Still (s.command c cmd) := by
  intro x
  rw [command_get]
  split
  · rw [Bool.eq_false_iff]
    intro hd
    rcases after_isDriving hd with ⟨d, rfl, -⟩ | ⟨hx, -⟩
    · exact h d rfl
    · rw [hs x] at hx
      cases hx
  · exact hs x

theorem relieveAll_still (s : State) : Still s.relieveAll :=
  still_of_letDown fun x => by
    rw [relieveAll_chans, each_get]
    exact (after_relieve _).1

theorem holdDriving_still (s : State) : Still s.holdDriving := by
  intro x
  rw [holdDriving_get]
  split
  · rfl
  · rename_i h
    exact Bool.eq_false_iff.2 h

/-- HOLD and RELIEVE stop the one channel that may drive. -/
theorem still_command_of_only {s : State} {c : Chan} (h : ∀ x, (s.chans.get x).state.isDriving = true → x = c)
    {cmd : ChanCmd} (hcmd : cmd = .hold ∨ cmd = .relieve) : Still (s.command c cmd) := by
  intro x
  rw [command_get]
  split
  · rcases hcmd with rfl | rfl
    · generalize s.chans.get x = y
      obtain ⟨st, b, t⟩ := y
      cases st <;> rfl
    · exact letDown_not_driving (after_relieve _).1
  · rename_i hx
    exact Bool.eq_false_iff.2 fun hd => hx (h x hd)

theorem Still.enterEnding {s : State} (hs : Still s) (o : RunOutcome) (c : Option Cause) : Still (s.enterEnding o c) := by
  cases hr : s.runs.run with
  | none => rwa [show s.enterEnding o c = s by rw [State.enterEnding, hr]]
  | some r =>
    obtain ⟨-, -, -, hchans⟩ := enterEnding_spec hr o c
    exact still_of_letDown fun x => by rw [hchans]; exact (after_relieve _).1

/-! ### Operations that leave the channels -/

@[simp] theorem arm_chans (s : State) (n : Nat) (a b : Bool) : (s.arm n a b).chans = s.chans := (arm_spec s n a b).2.1

@[simp] theorem openRec_chans (s : State) (n : Nat) : (s.openRec n).chans = s.chans := by
  unfold State.openRec
  split <;> rfl

@[simp] theorem closeRec_chans (s : State) (o : RunOutcome) (c : Option Cause) : (s.closeRec o c).chans = s.chans := rfl

@[simp] theorem queue_chans (s : State) (f : TxFrame) : (s.queue f).chans = s.chans :=
  (inner_fields (queue_inner s f)).2.2.1

@[simp] theorem queueYield_chans (s : State) : s.queueYield.chans = s.chans := queue_chans ..

@[simp] theorem queueClaim_chans (s : State) (m : Manoeuvre) : (s.queueClaim m).chans = s.chans := by
  unfold State.queueClaim
  split
  · exact queue_chans ..
  · rfl

/-- A failing step changes its own channel alone, by RELIEVE (R136). -/
@[simp] theorem failStep_chans (s : State) (c : CurStep) (d : StepDef) (x : Cause) (b : Bool) :
    (s.failStep c d x b).chans = (s.command d.chan .relieve).chans := by
  unfold State.failStep
  dsimp only
  split
  · rfl
  · split
    · exact openRec_chans ..
    · rfl

theorem Still.relieveOthers {s : State} (hs : Still s) (c : Chan) : Still (s.relieveOthers c) := by
  obtain ⟨u, hu, hx⟩ := relieveOthers_spec s c
  intro x
  rw [hu]
  show ((u.get x).state).isDriving = false
  rw [hx]
  split
  · rfl
  · exact hs x

theorem Still.relieveUnnamed {s : State} (hs : Still s) (m : Manoeuvre) : Still (s.relieveUnnamed m) := by
  obtain ⟨u, hu, hx⟩ := relieveUnnamed_spec s m
  intro x
  rw [hu]
  show ((u.get x).state).isDriving = false
  rw [hx]
  split
  · exact hs x
  · exact letDown_not_driving (after_relieve _).1

theorem Still.failStep {s : State} (hs : Still s) (c : CurStep) (d : StepDef) (x : Cause) (b : Bool) :
    Still (s.failStep c d x b) :=
  (hs.command d.chan (cmd := .relieve) nofun).of_chans (failStep_chans ..)

theorem Still.enterOpening {s : State} (hs : Still s) (c : CurStep) (d : StepDef) : Still (s.enterOpening c d) := by
  unfold State.enterOpening
  dsimp only
  have h : Still (s.stepTo c .opening) := hs
  split
  · exact h.command _ nofun
  · exact h.command _ nofun
  all_goals exact h

end Sys2Proof.Engines
end

section
/-! Proofs about the ranges of the run stack (R98): a nest is made over at most one nest and never a fourth time, and every
other operation of the engines starts an empty stack, keeps its depth or takes its top entry away. -/

namespace Sys2Proof.RunStack

open Sys2Proof.Machine Sys2Proof.Laws Sys2Proof.Engines

/-- A run within the ranges of the stack (R98). -/
def InRange (r : Run) : Prop := r.nests.length ≤ 2 ∧ r.nestCount ≤ 3 ∧ r.nests.length ≤ r.nestCount

/-- The run that a node holds, if any, is within the ranges. -/
def StackOk (s : State) : Prop := ∀ r, s.runs.run = some r → InRange r

theorem stackLaws_iff (s : State) : s.stackLaws = true ↔ StackOk s := by
  unfold State.stackLaws StackOk InRange
  cases s.runs.run <;> simp [and_assoc]

theorem StackOk.of_runs {s t : State} (hs : StackOk s) (h : t.runs = s.runs) : StackOk t := fun r hr => by
  rw [h] at hr
  exact hs r hr

theorem stackOk_of_none {s : State} (h : s.runs.run = none) : StackOk s := fun r hr => by
  rw [h] at hr
  cases hr

theorem stackOk_of_some {s : State} {r : Run} (h : s.runs.run = some r) (hr : InRange r) : StackOk s := fun r' h' => by
  rw [h] at h'
  cases h'
  exact hr

/-- A run as it starts has no nests. -/
theorem inRange_fresh {r : Run} (hn : r.nests = []) (hc : r.nestCount = 0) : InRange r := by
  simp [InRange, hn, hc]

/-- Replacing the top entry keeps the depth. -/
@[simp] theorem setTop_nests_length (r : Run) (e : RunEntry) : (r.setTop e).nests.length = r.nests.length := by
  unfold Run.setTop
  split
  · rfl
  · rename_i h; simp [h]

@[simp] theorem setTop_nestCount (r : Run) (e : RunEntry) : (r.setTop e).nestCount = r.nestCount := by
  unfold Run.setTop
  split <;> rfl

theorem InRange.setTop {r : Run} (h : InRange r) (e : RunEntry) : InRange (r.setTop e) := by
  unfold InRange at h ⊢
  rwa [setTop_nests_length, setTop_nestCount]

/-- The stack below the top entry is within the ranges. -/
theorem InRange.pop {r : Run} {x : RunEntry} {rest : List RunEntry} (h : InRange r) (hn : r.nests = x :: rest) :
    InRange { r with nests := rest } := by
  obtain ⟨hlen, hcount, hle⟩ := h
  rw [hn, List.length_cons] at hlen hle
  exact ⟨Nat.le_of_succ_le hlen, hcount, Nat.le_of_succ_le hle⟩

section

variable {s : State} (hs : StackOk s)

include hs

/-! ## Ending, starting, switching -/

theorem StackOk.enterEnding (o : RunOutcome) (c : Option Cause) : StackOk (s.enterEnding o c) := by
  cases hr : s.runs.run with
  | none => rwa [show s.enterEnding o c = s by rw [State.enterEnding, hr]]
  | some r =>
    obtain ⟨hrun, -⟩ := enterEnding_spec hr o c
    exact stackOk_of_some hrun (hs r hr)

omit hs in
theorem stackOk_endStack (s : State) (o : RunOutcome) : StackOk (s.endStack o) := stackOk_of_none (endStack_spec s o).1

omit hs in
theorem stackOk_startRun (s : State) (m : Manoeuvre) (f : Option LiftFn) : StackOk (s.startRun m f) := by
  unfold State.startRun
  dsimp only
  split
  · exact stackOk_of_some rfl (inRange_fresh rfl rfl)
  · exact StackOk.of_runs (stackOk_of_some rfl (inRange_fresh rfl rfl)) (queueClaim_runs _ m)

theorem StackOk.requestIdle (m : Manoeuvre) (f : Option LiftFn) : StackOk (s.requestIdle m f) := by
  unfold State.requestIdle
  split
  · exact hs
  · split
    · exact hs
    · exact stackOk_startRun _ _ _

theorem StackOk.switchTo (m : Manoeuvre) (f : Option LiftFn) : StackOk (s.switchTo m f) := by
  unfold State.switchTo
  split
  · exact hs
  · dsimp only
    split
    · split
      · refine StackOk.of_runs ?_ (arm_runs ..)
        refine StackOk.of_runs ?_ (relieveUnnamed_runs ..)
        exact stackOk_of_some rfl (inRange_fresh rfl rfl)
      · exact stackOk_of_some rfl (inRange_fresh rfl rfl)
    · exact stackOk_of_some rfl (inRange_fresh rfl rfl)

theorem StackOk.touchRequest (m : Manoeuvre) : StackOk (s.touchRequest m) := by
  unfold State.touchRequest
  split
  · exact hs.requestIdle m none
  · rename_i r hr
    cases r.phase with
    | ending => exact hs
    | claiming | running =>
      dsimp only
      split
      · exact hs.enterEnding _ _
      · exact hs.switchTo _ _
    | paused => exact hs

theorem StackOk.resumeRun {r : Run} (hr : s.runs.run = some r) : StackOk (s.resumeRun r) := by
  unfold State.resumeRun
  split
  · exact hs
  · refine StackOk.of_runs ?_ (arm_runs ..)
    exact stackOk_of_some rfl (hs r hr)

theorem StackOk.heldBegin (f : LiftFn) : StackOk (s.heldBegin f) := by
  unfold State.heldBegin
  split
  · exact hs.requestIdle _ _
  · rename_i r hr
    cases r.phase with
    | ending => exact hs
    | paused =>
      dsimp only
      split
      · exact hs.resumeRun hr
      · exact hs.switchTo _ _
    | claiming | running => exact hs

theorem StackOk.pauseRun {r : Run} (hr : s.runs.run = some r) : StackOk (s.pauseRun r) := by
  unfold State.pauseRun
  split
  · exact hs
  · exact stackOk_of_some rfl (hs r hr)

theorem StackOk.heldEnd (f : LiftFn) : StackOk (s.heldEnd f) := by
  unfold State.heldEnd
  split
  · exact hs
  · rename_i r hr
    split
    · cases r.phase with
      | claiming => exact hs.enterEnding _ _
      | running => exact hs.pauseRun hr
      | paused | ending => exact hs
    · exact hs

theorem StackOk.grantRun {r : Run} (hr : s.runs.run = some r) : StackOk (s.grantRun r) := by
  unfold State.grantRun
  refine StackOk.of_runs ?_ (arm_runs ..)
  exact stackOk_of_some rfl (hs r hr)

theorem StackOk.yieldStray : StackOk s.yieldStray := hs.of_runs (yieldStray_runs s)

theorem StackOk.takeVerdict (v : Verdict) : StackOk (s.takeVerdict v) := by
  cases hr : s.runs.run with
  | none =>
    cases v <;> simp only [State.takeVerdict, hr]
    case appended | granted => exact hs.yieldStray
    all_goals exact hs
  | some r =>
    cases hp : r.phase <;> cases v <;> simp only [State.takeVerdict, hr, hp]
    case claiming.granted =>
      split
      · exact hs.grantRun hr
      · exact hs.yieldStray
    case claiming.appended =>
      split
      · exact hs
      · exact hs.yieldStray
    case claiming.refused c =>
      split
      · exact hs.enterEnding _ _
      · exact hs
    case running.removedByYield | running.removedByJoin | paused.removedByYield | paused.removedByJoin =>
      exact hs.enterEnding _ _
    all_goals exact hs

/-! ## The engines' moves -/

theorem StackOk.failStep (c : CurStep) (d : StepDef) (x : Cause) (b : Bool) : StackOk (s.failStep c d x b) :=
  hs.of_runs (failStep_runs ..)

/-- A nest is made over at most one nest, and at most three times (R121). -/
theorem StackOk.makeNest {r : Run} (hr : s.runs.run = some r) (d : StepDef) (m : Manoeuvre) (hcount : r.nestCount ≠ 3)
    (hdepth : r.nests.length < 2) : StackOk (s.makeNest r d m) := by
  obtain ⟨-, hle, hlen⟩ := hs r hr
  unfold State.makeNest
  refine StackOk.of_runs ?_ (arm_runs ..)
  refine stackOk_of_some rfl ⟨?_, ?_, ?_⟩
  · simp only [List.length_cons, setTop_nests_length]; omega
  · show r.nestCount + 1 ≤ 3; omega
  · simp only [List.length_cons, setTop_nests_length]; omega

theorem StackOk.nestTrigger {r : Run} (hr : s.runs.run = some r) (c : CurStep) (d : StepDef) (m : Manoeuvre) :
    StackOk (s.nestTrigger r c d m) := by
  unfold State.nestTrigger
  split
  · exact hs.failStep _ _ _ _
  · split
    · exact hs.failStep _ _ _ _
    · split
      · exact hs.makeNest hr d m (by assumption) (by omega)
      · exact hs.failStep _ _ _ _

theorem StackOk.drivingMove {t : State} {r : Run} {c : CurStep} {d : StepDef} (hr : s.runs.run = some r)
    (h : s.drivingMove r c d = some t) : StackOk t := by
  unfold State.drivingMove at h
  split at h
  · obtain rfl := Option.some.inj h; exact hs
  · split at h
    · obtain rfl := Option.some.inj h; exact hs.nestTrigger hr _ _ _
    · split at h
      · obtain rfl := Option.some.inj h; exact hs
      · split at h
        case h_1 =>
          split at h
          · cases h
          · obtain rfl := Option.some.inj h; exact hs.failStep _ _ _ _
        case h_2 | h_3 => obtain rfl := Option.some.inj h; exact hs
        all_goals obtain rfl := Option.some.inj h; exact hs.failStep _ _ _ _

theorem StackOk.plainMove {t : State} {r : Run} {c : CurStep} {d : StepDef} (hr : s.runs.run = some r)
    (h : s.plainMove r c d = some t) : StackOk t := by
  unfold State.plainMove at h
  cases hc : c.state <;> simp only [hc] at h
  case arming => exact hs.of_runs (armingMove_runs h)
  case driving => exact hs.drivingMove hr h
  all_goals
    refine hs.of_runs ?_
    repeat' split at h
  all_goals cases h <;> simp [State.returnToArming]

theorem StackOk.completeTop {r : Run} (hr : s.runs.run = some r) : StackOk (s.completeTop r) := by
  unfold State.completeTop
  split
  · exact hs.enterEnding _ _
  · rename_i x rest hn
    refine StackOk.of_runs ?_ (arm_runs ..)
    exact stackOk_of_some rfl (((hs r hr).pop hn).setTop _)

theorem StackOk.failTop {r : Run} (hr : s.runs.run = some r) (c : Option Cause) : StackOk (s.failTop r c) := by
  unfold State.failTop
  split
  · exact hs.enterEnding _ _
  · rename_i x rest hn
    dsimp only
    have below (e : RunEntry) : StackOk (s.setRun (Run.setTop { r with nests := rest } e)) :=
      stackOk_of_some rfl (((hs r hr).pop hn).setTop _)
    split
    · exact (below _).enterEnding _ _
    · exact ((below _).of_runs (setSteps_runs ..)).failStep _ _ _ _

theorem StackOk.takeOutcome {r : Run} (hr : s.runs.run = some r) (o : RunOutcome) (c : Option Cause) :
    StackOk (s.takeOutcome r o c) := by
  unfold State.takeOutcome
  split
  · exact hs.failTop hr c
  · dsimp only
    split
    · exact StackOk.completeTop (stackOk_of_some rfl ((hs r hr).setTop _)) rfl
    · exact StackOk.of_runs (stackOk_of_some rfl (((hs r hr).setTop _).setTop _)) (arm_runs ..)

theorem StackOk.stepMove {t : State} (h : stepMove s = some t) : StackOk t := by
  unfold Machine.stepMove at h
  split at h
  · rename_i r c hr hc
    split at h
    · split at h
      · obtain rfl := Option.some.inj h; exact hs.takeOutcome hr _ _
      · split at h
        · cases h
        · split at h
          · obtain rfl := Option.some.inj h; exact hs.failStep _ _ _ _
          · split at h
            · obtain rfl := Option.some.inj h; exact hs.failStep _ _ _ _
            · exact hs.plainMove hr h
    · cases h
  · cases h

omit hs in
theorem stackOk_leaveEnding (r : Run) : StackOk (s.leaveEnding r) := stackOk_of_none rfl

theorem StackOk.runMove {t : State} (h : runMove s = some t) : StackOk t := by
  unfold Machine.runMove at h
  split at h
  · cases h
  · rename_i r hr
    have same (x : Run) (hn : x.nests = r.nests) (hc : x.nestCount = r.nestCount) : StackOk (s.setRun x) :=
      stackOk_of_some rfl (by unfold InRange; rw [hn, hc]; exact hs r hr)
    cases hp : r.phase <;> simp only [hp] at h
    case ending =>
      split at h
      · obtain rfl := Option.some.inj h; exact stackOk_leaveEnding r
      · split at h
        · cases h
        · obtain rfl := Option.some.inj h; exact same _ rfl rfl
    case claiming =>
      split at h
      · split at h
        · obtain rfl := Option.some.inj h; refine StackOk.of_runs ?_ (queueYield_runs _); exact same _ rfl rfl
        · cases h
      · split at h
        · obtain rfl := Option.some.inj h; refine StackOk.of_runs ?_ (queueClaim_runs _ _); exact same _ rfl rfl
        · cases h
    all_goals cases h

theorem StackOk.engineMove {t : State} (h : engineMove s = some t) : StackOk t := by
  unfold Machine.engineMove at h
  split at h
  · obtain rfl := Option.some.inj h; exact hs.stepMove (by assumption)
  · exact hs.runMove h

theorem StackOk.finish (old : State) : StackOk (finish old s) :=
  finish_keeps (fun _ _ h hs => hs.engineMove h) (fun old _ hs => hs.of_runs (noteChange_runs old _))
    (fun f hf _ hs => hs.of_runs (inner_fields (passes_inner f hf _)).1) old s hs

end

end Sys2Proof.RunStack
end

section
/-! What every command but the resets keeps: straps, serial and queue of commands, the driver cut-off, FAULTED channels, and
the laws of the link controller, of the log ring, of the run stack and of the filters. Each operation of the model is looked
at once; the commands' own statements follow from `exec_kept`. -/

namespace Sys2Proof.Kept

open Sys2Proof.Machine Sys2Proof.Laws Sys2Proof.Engines Sys2Proof.RunStack Sys2Proof.FrameProcessing

/-! ## The transmit list -/

/-- What tells pending frames apart (section 1.6). -/
def key (e : TxEntry) : Kind × Option Node := (e.frame.kind, e.frame.subject)

theorem isFor_iff (e : TxEntry) (k : Kind) (x : Option Node) : e.isFor k x = true ↔ key e = (k, x) := by
  simp [TxEntry.isFor, key]

theorem onePerKind_iff (tx : List TxEntry) : onePerKind tx = true ↔ (tx.map key).Nodup := by
  induction tx with
  | nil => simp [onePerKind]
  | cons e tx ih =>
    simp only [onePerKind, Bool.and_eq_true, ih, List.map_cons, List.nodup_cons, List.all_eq_true, List.mem_map]
    refine and_congr_left fun _ => ?_
    constructor
    · rintro h ⟨x, hx, hk⟩
      exact absurd ((isFor_iff ..).2 hk) (by simpa using h x hx)
    · intro h x hx
      rw [Bool.not_eq_true', Bool.eq_false_iff]
      exact fun hf => h ⟨x, hx, (isFor_iff ..).1 hf⟩

/-- A transmit list within its ranges (R11, section 1.6). -/
def TxOk (tx : List TxEntry) : Prop := (∀ e ∈ tx, e.attempts ≤ 7) ∧ (tx.map key).Nodup

theorem txOk_nil : TxOk [] := ⟨by simp, by simp⟩

theorem TxOk.filter {tx : List TxEntry} (h : TxOk tx) (p : TxEntry → Bool) : TxOk (tx.filter p) :=
  ⟨fun e he => h.1 e (List.mem_of_mem_filter he), h.2.sublist (List.filter_sublist.map key)⟩

/-- Changing entries without their keys. -/
theorem TxOk.map {tx : List TxEntry} (h : TxOk tx) {f : TxEntry → TxEntry} (hkey : ∀ e, key (f e) = key e)
    (hatt : ∀ e ∈ tx, (f e).attempts ≤ 7) : TxOk (tx.map f) := by
  refine ⟨fun e he => ?_, ?_⟩
  · obtain ⟨x, hx, rfl⟩ := List.mem_map.1 he
    exact hatt x hx
  · rw [List.map_map, show key ∘ f = key from funext hkey]
    exact h.2

theorem TxOk.queueIn {tx : List TxEntry} (h : TxOk tx) (f : TxFrame) : TxOk (queueIn tx f) := by
  unfold Machine.queueIn
  split
  · refine h.map (fun e => ?_) fun e he => ?_
    · split
      · rename_i hf
        exact ((isFor_iff ..).1 hf).symm
      · rfl
    · split <;> exact h.1 e he
  · rename_i hnone
    refine ⟨fun e he => ?_, ?_⟩
    · rcases List.mem_append.1 he with he | he
      · exact h.1 e he
      · rw [List.mem_singleton.1 he]
        exact Nat.zero_le _
    · rw [List.map_append, List.nodup_append]
      refine ⟨h.2, by simp, fun a ha b hb => ?_⟩
      obtain ⟨e, he, rfl⟩ := List.mem_map.1 ha
      rintro rfl
      rw [List.map_singleton, List.mem_singleton] at hb
      exact hnone (List.any_eq_true.2 ⟨e, he, (isFor_iff ..).2 hb⟩)

theorem TxOk.withdrawIn {tx : List TxEntry} (h : TxOk tx) (line : LineUse) (k : Kind) (x : Option Node) :
    TxOk (withdrawIn line tx k x) := by
  unfold Machine.withdrawIn
  split
  · refine h.map (fun e => ?_) fun e he => ?_
    · split <;> rfl
    · split <;> exact h.1 e he
  · exact h.filter _

/-- A count that does not reach the eighth attempt stays within the range (R11). -/
theorem TxOk.countAttempt {tx : List TxEntry} (h : TxOk tx) (k : Kind) (x : Option Node)
    (hused : attemptsUsedUp (countAttempt tx k x) = false) : TxOk (countAttempt tx k x) := by
  have bounded : ∀ e ∈ Machine.countAttempt tx k x, e.attempts ≤ 7 := fun e he => by
    have := List.any_eq_false.1 hused e he
    simp only [decide_eq_true_eq] at this
    omega
  refine h.map (fun e => ?_) fun e he => bounded _ (List.mem_map_of_mem he)
  split <;> rfl

/-! ## The link controller -/

theorem linkLaws_iff (l : LinkUnit) :
    l.laws = true ↔ l.rx.length ≤ 4 ∧ (l.line.own = true → l.rx.length ≤ 3) ∧ l.vetoRun ≤ 15 ∧ TxOk l.tx := by
  simp only [LinkUnit.laws, TxOk, Bool.and_eq_true, Bool.or_eq_true, Bool.not_eq_true', decide_eq_true_eq,
    List.all_eq_true, onePerKind_iff]
  cases l.line.own <;> simp <;> tauto

/-- A link controller with another transmit list. -/
theorem linkLaws_tx {l : LinkUnit} (h : l.laws = true) {tx : List TxEntry} (htx : TxOk l.tx → TxOk tx) :
    ({ l with tx := tx } : LinkUnit).laws = true := by
  rw [linkLaws_iff] at h ⊢
  obtain ⟨hrx, hown, hveto, hold⟩ := h
  exact ⟨hrx, hown, hveto, htx hold⟩

theorem queue_linkLaws {s : State} (h : s.link.laws = true) (f : TxFrame) : (s.queue f).link.laws = true := by
  unfold State.queue
  split
  · exact linkLaws_tx h fun htx => htx.queueIn f
  · exact h

theorem withdraw_linkLaws {s : State} (h : s.link.laws = true) (k : Kind) (x : Option Node) :
    (s.withdraw k x).link.laws = true := linkLaws_tx h fun htx => htx.withdrawIn _ k x

/-! ## The log ring -/

/-- A ring within its ranges (R190). -/
theorem logLaws_iff (l : LogUnit) :
    l.laws = true ↔ (l.slots.map LogSlot.slot).Nodup ∧ (∀ x ∈ l.slots, x.slot < 32) ∧ l.wpos < 32 := by
  have distinct (slots : List LogSlot) : slotsDistinct slots = true ↔ (slots.map LogSlot.slot).Nodup := by
    induction slots with
    | nil => simp [slotsDistinct]
    | cons x slots ih =>
      simp only [slotsDistinct, Bool.and_eq_true, ih, List.map_cons, List.nodup_cons, List.all_eq_true, bne_iff_ne,
        List.mem_map, not_exists, not_and]
  simp only [LogUnit.laws, Bool.and_eq_true, decide_eq_true_eq, List.all_eq_true, distinct, and_assoc]

theorem nextSlot_lt {slots : List LogSlot} (h : ∀ x ∈ slots, x.slot < 32) : nextSlot slots < 32 := by
  unfold nextSlot
  split
  · assumption
  · split
    · rename_i x hx
      exact h x (List.mem_of_find?_eq_some hx)
    · decide

theorem putRecord_lt {slots : List LogSlot} {w : Nat} (h : ∀ x ∈ slots, x.slot < 32) (hw : w < 32) (r : LogRec) :
    ∀ x ∈ putRecord slots w r, x.slot < 32 := by
  intro x hx
  rcases List.mem_append.1 hx with hx | hx
  · exact h x (List.mem_of_mem_filter hx)
  · rw [List.mem_singleton.1 hx]
    exact hw

theorem putRecord_nodup {slots : List LogSlot} (h : (slots.map LogSlot.slot).Nodup) (w : Nat) (r : LogRec) :
    ((putRecord slots w r).map LogSlot.slot).Nodup := by
  rw [putRecord, List.map_append, List.nodup_append]
  refine ⟨h.sublist (List.filter_sublist.map _), by simp, fun a ha b hb => ?_⟩
  obtain ⟨x, hx, rfl⟩ := List.mem_map.1 ha
  rw [List.map_singleton, List.mem_singleton] at hb
  rw [hb]
  simpa using (List.mem_filter.1 hx).2

theorem writeRec_logLaws {s : State} (h : s.log.laws = true) (r : LogRec) : (s.writeRec r).log.laws = true := by
  rw [logLaws_iff] at h ⊢
  obtain ⟨hnodup, hslots, hw⟩ := h
  have hput := putRecord_lt hslots hw r
  exact ⟨putRecord_nodup hnodup _ r, hput, nextSlot_lt hput⟩

/-- A ring whose records alone change. -/
theorem logLaws_map {l : LogUnit} (h : l.laws = true) {f : LogSlot → LogSlot} (hf : ∀ x, (f x).slot = x.slot)
    (tag : BitVec 16) : ({ tag := tag, slots := l.slots.map f, wpos := l.wpos } : LogUnit).laws = true := by
  rw [logLaws_iff] at h ⊢
  obtain ⟨hnodup, hslots, hw⟩ := h
  refine ⟨?_, fun x hx => ?_, hw⟩
  · rw [List.map_map, show LogSlot.slot ∘ f = LogSlot.slot from funext hf]
    exact hnodup
  · obtain ⟨y, hy, rfl⟩ := List.mem_map.1 hx
    rw [hf]
    exact hslots y hy

theorem changeOpen_logLaws {s : State} (h : s.log.laws = true) (f : LogRec → LogRec) :
    (s.changeOpen f).log.laws = true := by
  refine logLaws_map h (fun x => ?_) s.log.tag
  split <;> rfl

/-! ## What follows an event -/

theorem follows_linkLaws {s t : State} (h : Follows s t) (hs : s.link.laws = true) : t.link.laws = true :=
  h.keeps (P := fun t => t.link.laws = true) hs (fun _ _ _ h => h) (fun _ _ _ h => h) (fun _ h => h) (fun _ h => h)
    (fun _ _ h => h) (fun _ _ h => h) (fun _ f _ h => queue_linkLaws h f) (fun _ k x _ h => withdraw_linkLaws h k x)
    (fun _ _ h => h) (fun _ _ _ _ _ h => h)

theorem follows_logLaws {s t : State} (h : Follows s t) (hs : s.log.laws = true) : t.log.laws = true := by
  refine h.keeps (P := fun t => t.log.laws = true) hs (fun _ _ _ h => h) (fun _ _ _ h => h) (fun _ h => h) (fun _ h => h)
    (fun _ r h => writeRec_logLaws h r) (fun _ f h => changeOpen_logLaws h f) (fun t f _ h => ?_) (fun _ _ _ _ h => h)
    (fun _ _ h => h) (fun _ _ _ _ _ h => h)
  rwa [(inner_fields (queue_inner t f)).2.2.2]

/-! ## The relation -/

/-- What is kept from `s` to `t`; `acked` lets an ACK take a channel out of FAULTED. -/
structure Keeps (acked : Prop) (s t : State) : Prop where
  straps : t.straps = s.straps
  serial : t.serial = s.serial
  pending : t.pending = s.pending
  cut : s.link.driverCut = true → t.link.driverCut = true
  link : s.link.laws = true → t.link.laws = true
  log : s.log.laws = true → t.log.laws = true
  stack : StackOk s → StackOk t
  filters : s.filterLaws = true → t.filterLaws = true
  faulted : ¬acked → ∀ x, (s.chans.get x).state = .faulted → (t.chans.get x).state = .faulted

section

variable {acked : Prop} {s t u : State}

theorem Keeps.refl (s : State) : Keeps acked s s :=
  ⟨rfl, rfl, rfl, id, id, id, id, id, fun _ _ => id⟩

theorem Keeps.trans (h : Keeps acked s t) (k : Keeps acked t u) : Keeps acked s u :=
  ⟨k.straps.trans h.straps, k.serial.trans h.serial, k.pending.trans h.pending, k.cut ∘ h.cut, k.link ∘ h.link,
    k.log ∘ h.log, k.stack ∘ h.stack, k.filters ∘ h.filters, fun ha x => k.faulted ha x ∘ h.faulted ha x⟩

/-- The filters' law reads the role and the inputs alone. -/
theorem filterLaws_congr (hstraps : t.straps = s.straps) (hinputs : t.lines.inputs = s.lines.inputs) :
    t.filterLaws = s.filterLaws := by
  simp only [State.filterLaws, hstraps, hinputs]

/-- The fields of the relation beside the link controller. -/
def beside (s : State) := (s.straps, s.serial, s.pending, s.log, s.lines.inputs, s.chans, s.runs)

/-- A change of the link controller, and of what the relation does not read. -/
theorem Keeps.of_link (h : beside t = beside s) (hcut : s.link.driverCut = true → t.link.driverCut = true)
    (hlink : s.link.laws = true → t.link.laws = true) : Keeps acked s t := by
  simp only [beside, Prod.mk.injEq] at h
  obtain ⟨hstraps, hserial, hpending, hlog, hinputs, hchans, hruns⟩ := h
  exact ⟨hstraps, hserial, hpending, hcut, hlink, fun hl => by rwa [hlog], fun hs => hs.of_runs hruns,
    fun hf => by rwa [filterLaws_congr hstraps hinputs], fun _ x hx => by rwa [hchans]⟩

/-- A change of what the relation does not read. -/
theorem Keeps.of_beside (h : beside t = beside s) (hlink : t.link = s.link) : Keeps acked s t :=
  Keeps.of_link h (by rw [hlink]; exact id) (by rw [hlink]; exact id)

/-- The engines' operations, but for the run stack. -/
theorem Keeps.of_follows (h : Follows s t) (hstack : StackOk s → StackOk t) : Keeps acked s t := by
  obtain ⟨hstraps, hserial, -, -, hlines, -, hpending, -, -, -, -, hcut, -⟩ := outer_fields (follows_outer h)
  exact ⟨hstraps, hserial, hpending, by rw [hcut]; exact id, follows_linkLaws h, follows_logLaws h, hstack,
    fun hf => by rwa [filterLaws_congr hstraps (by rw [hlines])], fun _ _ => h.faulted⟩

theorem Keeps.finish (h : Keeps acked s t) (old : State) : Keeps acked s (finish old t) :=
  h.trans (.of_follows (finish_follows old t) fun hs => hs.finish old)

/-! ## Shared operations -/

theorem keeps_queue (s : State) (f : TxFrame) : Keeps acked s (s.queue f) := by
  refine .of_link ?_ ?_ fun h => queue_linkLaws h f
  · unfold State.queue; split <;> rfl
  · unfold State.queue; split <;> exact id

theorem keeps_withdraw (s : State) (k : Kind) (x : Option Node) : Keeps acked s (s.withdraw k x) :=
  .of_link rfl id fun h => withdraw_linkLaws h k x

theorem keeps_dropPending (s : State) (k : Kind) (x : Option Node) : Keeps acked s (s.dropPending k x) := by
  unfold State.dropPending
  split
  · exact .refl s
  · exact keeps_withdraw s k x

theorem keeps_setEntry (s : State) (n : Node) (e : Entry) : Keeps acked s (s.setEntry n e) := .of_beside rfl rfl

theorem keeps_setOwed (s : State) (n : Node) (b : Bool) : Keeps acked s (s.setOwed n b) := .of_beside rfl rfl

theorem keeps_takeVerdict (s : State) (v : Verdict) : Keeps acked s (s.takeVerdict v) :=
  .of_follows (takeVerdict_follows s v) fun h => h.takeVerdict v

theorem keeps_removeRecord (s : State) (n : Node) : Keeps acked s (s.removeRecord n) := by
  rw [removeRecord_eq]
  exact .of_beside rfl rfl

theorem keeps_removeFor (s : State) (n : Node) (v : Verdict) : Keeps acked s (s.removeFor n v) := by
  unfold State.removeFor
  dsimp only
  have h := keeps_removeRecord (acked := acked) s n
  split
  · split
    · exact h.trans (keeps_takeVerdict _ _)
    · exact h
  · split
    · exact h.trans (keeps_takeVerdict _ _)
    · exact h

theorem keeps_endStack (s : State) (o : RunOutcome) : Keeps acked s (s.endStack o) :=
  .of_follows ((Follows.refl s).endStack o) fun _ => stackOk_endStack s o

theorem keeps_writeRequest (s : State) (m : Option Manoeuvre) (o : RunOutcome) (c : Cause) :
    Keeps acked s (s.writeRequest m o c) :=
  .of_follows ((Follows.refl s).writeRequest m o c) id

theorem keeps_relieveAll (s : State) : Keeps acked s s.relieveAll := .of_follows (Follows.refl s).relieve id

theorem keeps_dropRequests (s : State) : Keeps acked s s.dropRequests := .of_beside rfl rfl

theorem left_linkLaws (l : LinkUnit) : l.left.laws = true := by
  rw [linkLaws_iff]
  exact ⟨Nat.zero_le _, fun _ => Nat.zero_le _, Nat.zero_le _, txOk_nil⟩

theorem keeps_leave (s : State) (d : Departure) (c : Cause) : Keeps acked s (s.leave d c) := by
  have h : Keeps acked s ((s.endStack .isolated).writeRequest none d.outcome c).dropRequests :=
    ((keeps_endStack s _).trans (keeps_writeRequest _ _ _ _)).trans (keeps_dropRequests _)
  refine h.trans ?_
  exact .of_link rfl id fun _ => left_linkLaws _

theorem keeps_enterMember (s : State) : Keeps acked s s.enterMember := by
  unfold State.enterMember
  extract_lets _ _ s1 _ s2
  have h : Keeps acked s s2 := by
    refine Keeps.trans (Keeps.trans ?_ (keeps_withdraw _ _ _)) (keeps_queue _ _)
    exact .of_beside rfl rfl
  split
  · exact h.trans (keeps_queue _ _)
  · exact h

theorem keeps_enterListen (s : State) : Keeps acked s s.enterListen :=
  .of_link rfl id fun h => (linkLaws_iff _).2 ((linkLaws_iff _).1 h)

theorem keeps_enterJoinWait (s : State) : Keeps acked s s.enterJoinWait := by
  refine Keeps.trans ?_ (keeps_queue _ _)
  exact .of_beside rfl rfl

/-! ## Processed frames -/

/-- A processing that keeps, whatever the frame. -/
def KeptBy (acked : Prop) (f : RxRec → State → State) : Prop := ∀ r s, Keeps acked s (f r s)

theorem KeptBy.process {f : RxRec → State → State} (h : KeptBy acked f) (s : State) (k : Kind) :
    Keeps acked s (s.process k f) := by
  unfold State.process
  split
  · exact .refl s
  · rename_i r rest hrx
    split
    · refine Keeps.trans ?_ (h r _)
      refine .of_link rfl id fun hl => ?_
      rw [linkLaws_iff, hrx] at hl
      rw [linkLaws_iff]
      obtain ⟨hlen, hown, hveto, htx⟩ := hl
      rw [List.length_cons] at hlen hown
      exact ⟨by show rest.length ≤ 4; omega, fun ho => by have := hown ho; show rest.length ≤ 3; omega, hveto, htx⟩
    · exact .refl s

theorem takeHalt_kept : KeptBy acked State.takeHalt := by
  intro r s
  unfold State.takeHalt
  split
  · exact .refl s
  · split
    · rw [HaltAndClear.halt_eq]
      have h : Keeps acked s (HaltAndClear.withHalt s r.sender) := .of_beside rfl rfl
      exact ((h.trans (keeps_endStack _ _)).trans (keeps_dropRequests _)).trans (keeps_writeRequest _ _ _ _)
    · exact .refl s

theorem keeps_clearHalt (s : State) : Keeps acked s s.clearHalt := by
  unfold State.clearHalt
  extract_lets _ s1
  have h : Keeps acked s s1 := .of_beside rfl rfl
  split
  · exact h.trans (keeps_queue _ _)
  · exact h

theorem takeClear_kept : KeptBy acked State.takeClear := by
  intro r s
  unfold State.takeClear
  split
  · exact .refl s
  · split
    · exact keeps_clearHalt s
    · exact .refl s

theorem takeYield_kept : KeptBy acked State.takeYield := by
  intro r s
  unfold State.takeYield
  split
  · exact .refl s
  · split
    · exact keeps_removeFor ..
    · exact .refl s

theorem keeps_claimFrom (s : State) (n : Node) (m : ClaimMsg) : Keeps acked s (s.claimFrom n m) := by
  unfold State.claimFrom
  split
  · split
    · exact keeps_takeVerdict ..
    · exact .refl s
  · extract_lets s1
    have h : Keeps acked s s1 := .of_beside rfl rfl
    split
    · exact h.trans (keeps_takeVerdict _ _)
    · exact h

theorem takeClaim_kept : KeptBy acked State.takeClaim := by
  intro r s
  unfold State.takeClaim
  split
  · exact .refl s
  · split
    · exact keeps_claimFrom ..
    · exact .refl s

theorem keeps_evict (s : State) (n : Node) : Keeps acked s (s.evict n) := by
  unfold State.evict
  split
  · exact keeps_leave ..
  · split
    · exact ((((keeps_setEntry _ _ _).trans (keeps_setOwed _ _ _)).trans (keeps_dropPending _ _ _)).trans
        (keeps_removeFor _ _ _))
    · exact ((((keeps_setEntry _ _ _).trans (keeps_setOwed _ _ _)).trans (keeps_dropPending _ _ _)).trans
        (keeps_removeFor _ _ _))
    all_goals exact .refl s

theorem takeEvict_kept : KeptBy acked State.takeEvict := by
  intro r s
  unfold State.takeEvict
  split
  · exact .refl s
  · split
    · exact keeps_evict ..
    · exact .refl s

theorem keeps_resync (s : State) : Keeps acked s s.resync := by
  unfold State.resync
  split
  · exact (keeps_endStack s _).trans ((keeps_withdraw _ _ _).trans (keeps_queue _ _))
  · exact .refl s

theorem keeps_snapOwn (s : State) (m : SnapMsg) : Keeps acked s (s.snapOwn m) := by
  have adopted : Keeps acked s (s.resync.adopt m) := (keeps_resync s).trans (.of_beside rfl rfl)
  unfold State.snapOwn
  split
  · exact adopted.trans (keeps_enterMember _)
  · exact adopted.trans (keeps_leave _ _ _)
  all_goals exact .refl s

theorem takeSnapshot_kept : KeptBy acked State.takeSnapshot := by
  intro r s
  unfold State.takeSnapshot
  split
  · exact .refl s
  · split
    · split
      · exact keeps_snapOwn ..
      · exact .refl s
    · split
      · unfold State.snapOther
        refine Keeps.trans ?_ (keeps_setOwed _ _ _)
        split
        · exact keeps_setEntry ..
        · exact .refl s
      · exact .refl s

theorem keeps_joinMember (s : State) (n : Node) (m : JoinMsg) : Keeps acked s (s.joinMember n m) := by
  unfold State.joinMember
  refine Keeps.trans (Keeps.trans ?_ (keeps_setEntry _ _ _)) (keeps_setOwed _ _ _)
  split
  · exact keeps_removeFor ..
  · exact keeps_removeFor ..
  all_goals exact .refl s

theorem keeps_joinProvisional (s : State) (n : Node) (m : JoinMsg) : Keeps acked s (s.joinProvisional n m) := by
  have found : Keeps acked s (s.found n m) := .of_beside rfl rfl
  unfold State.joinProvisional
  split
  · split
    · exact found.trans (keeps_enterMember _)
    · exact found
  · exact keeps_setEntry ..

theorem takeJoin_kept : KeptBy acked State.takeJoin := by
  intro r s
  unfold State.takeJoin
  split
  · exact .refl s
  · split
    · exact .refl s
    · split
      · exact keeps_leave ..
      · split
        · exact keeps_joinMember ..
        · exact keeps_joinProvisional ..

theorem keeps_checkDiverged (s : State) : Keeps acked s s.checkDiverged := by
  unfold State.checkDiverged
  split
  · exact keeps_leave ..
  · exact .refl s

theorem keeps_byPosture (s : State) (n : Node) (m : PostureMsg) (noted : BitVec 8) :
    Keeps acked s (s.byPosture n m noted) := by
  unfold State.byPosture
  dsimp only
  split
  · exact keeps_setEntry ..
  · exact (keeps_setEntry _ _ _).trans (keeps_queue _ _)
  all_goals exact keeps_setEntry ..

theorem takePosture_kept : KeptBy acked State.takePosture := by
  intro r s
  unfold State.takePosture
  split
  · exact .refl s
  · split
    · exact .refl s
    · split
      · split
        · exact keeps_leave ..
        · split
          · exact keeps_checkDiverged s
          · exact .refl s
      · split
        · exact (keeps_byPosture _ _ _ _).trans (keeps_checkDiverged _)
        · exact .of_beside rfl rfl

theorem takeProbe_kept : KeptBy acked State.takeProbe := by
  intro r s
  unfold State.takeProbe
  split
  · exact .refl s
  · split
    · exact keeps_queue ..
    · exact .refl s

theorem takeReply_kept : KeptBy acked State.takeReply := by
  intro r s
  unfold State.takeReply
  split
  · exact .refl s
  · split
    · exact .of_beside rfl rfl
    · exact .refl s

/-! ## The link -/

theorem keeps_attemptCounted (s : State) (k : Kind) (x : Option Node) {line : LineUse} (hline : line.own = false) :
    Keeps acked s (s.attemptCounted k x line) := by
  unfold State.attemptCounted
  split
  · exact keeps_leave ..
  · rename_i hused
    refine .of_link rfl id fun h => ?_
    rw [linkLaws_iff] at h ⊢
    obtain ⟨hrx, -, hveto, htx⟩ := h
    exact ⟨hrx, fun ho => absurd (hline.symm.trans ho) (by decide), hveto,
      (htx.countAttempt k x (Bool.eq_false_iff.2 hused)).filter _⟩

/-- A take by a node that has cleared the line of its own attempt, with room in its queue (R9). -/
theorem keeps_take (hbeside : beside t = beside s) (hcut : t.link.driverCut = s.link.driverCut)
    (h : s.link.laws = true → t.link.rx.length ≤ 3 ∧ t.link.line.own = false ∧ TxOk t.link.tx) (k : Kind) (n : Node)
    (p : List Byte) (own : Bool) : Keeps acked s (t.take k n p own) := by
  unfold State.take
  extract_lets _ _ s1
  have taken : Keeps acked s s1 := by
    refine .of_link hbeside (fun hc => hcut.trans hc) fun hl => ?_
    obtain ⟨hroom, hline, htx⟩ := h hl
    refine (linkLaws_iff _).2 ⟨?_, fun ho => absurd (hline.symm.trans ho) (by decide), Nat.zero_le _, htx⟩
    show (t.link.rx ++ [_]).length ≤ 4
    rw [List.length_append, List.length_singleton]
    omega
  split
  · exact taken
  · exact taken.trans (keeps_setEntry _ _ _)

theorem keeps_ownTaken (s : State) (k : Kind) : Keeps acked s (s.ownTaken k) := by
  unfold State.ownTaken
  split
  · split
    · exact .of_beside rfl rfl
    · exact .refl s
  · split
    · exact .of_beside rfl rfl
    · exact .refl s
  · exact .refl s

theorem keeps_ownSlot (s : State) (k : Kind) (x : Option Node) (p : List Byte) (vetoed : Bool)
    (hline : s.link.line.own = true) : Keeps acked s (s.ownSlot k x p vetoed) := by
  unfold State.ownSlot
  split
  · exact keeps_attemptCounted s k x rfl
  · dsimp only
    refine Keeps.trans ?_ (keeps_ownTaken _ _)
    refine keeps_take ?_ ?_ (fun hl => ?_) _ _ _ _
    · rfl
    · rfl
    obtain ⟨-, hown, -, htx⟩ := (linkLaws_iff _).1 hl
    exact ⟨hown hline, rfl, htx.filter _⟩

theorem keeps_vetoFrame (s : State) : Keeps acked s s.vetoFrame := by
  unfold State.vetoFrame
  split
  · exact keeps_leave ..
  · refine .of_link rfl id fun h => ?_
    rw [linkLaws_iff] at h ⊢
    obtain ⟨hrx, hown, -, htx⟩ := h
    exact ⟨hrx, hown, by show s.link.vetoRun + 1 ≤ 15; omega, htx⟩

theorem keeps_receiveSlot (s : State) (f : LineFrame) (vetoed : Bool) (hline : s.link.line = .quiet) :
    Keeps acked s (s.receiveSlot f vetoed) := by
  unfold State.receiveSlot
  split
  · exact .refl s
  · split
    · exact keeps_vetoFrame s
    · split
      · exact .refl s
      · split
        · rename_i hroom
          simp only [Bool.and_eq_true, decide_eq_true_eq] at hroom
          refine keeps_take rfl rfl (fun hl => ⟨by omega, by rw [hline]; rfl, ?_⟩) _ _ _ _
          obtain ⟨-, -, -, htx⟩ := (linkLaws_iff _).1 hl
          exact htx
        · exact .refl s

theorem keeps_slot (s : State) (f : LineFrame) (vetoed : Bool) : Keeps acked s (s.slot f vetoed) := by
  unfold State.slot
  split
  · rename_i hline
    exact keeps_ownSlot s _ _ _ _ (by rw [hline]; rfl)
  · refine .of_link rfl id fun h => ?_
    obtain ⟨hrx, -, hveto, htx⟩ := (linkLaws_iff _).1 h
    exact (linkLaws_iff _).2 ⟨hrx, nofun, hveto, htx⟩
  · rename_i hline
    exact keeps_receiveSlot s f vetoed hline

/-! ## Inputs, drivers and the engines' timers -/

theorem setInput_get (s : State) (i j : Fin 16) (x : Input) :
    (s.setInput i x).lines.inputs[j] = if j = i then x else s.lines.inputs[j] := by
  by_cases h : j = i
  · subst h; simp
  · have hv : i.val ≠ j.val := fun hn => h (Fin.ext hn.symm)
    simp [h, hv]

theorem filterLaws_iff (s : State) : s.filterLaws = true ↔ ∀ i : Fin 16, s.lines.inputs[i].timer.isSome =
    (rawActive s.straps.role i s.lines.inputs[i].closed != s.lines.inputs[i].active) := by
  simp only [State.filterLaws, List.all_eq_true, List.mem_finRange, true_imp_iff, beq_iff_eq]

/-- An input whose own timer runs as it should. -/
theorem keeps_setInput (s : State) {i : Fin 16} {x : Input}
    (h : x.timer.isSome = (rawActive s.straps.role i x.closed != x.active)) : Keeps acked s (s.setInput i x) where
  straps := rfl
  serial := rfl
  pending := rfl
  cut := id
  link := id
  log := id
  stack := id
  faulted := fun _ _ => id
  filters := fun hs => (filterLaws_iff _).2 fun j => by
    rw [setInput_get, setInput_straps]
    split
    · rename_i hj
      rw [hj]
      exact h
    · exact (filterLaws_iff s).1 hs j

theorem filterTimer_isSome (r : Role) (i : Fin 16) (closed active : Bool) :
    (filterTimer r i closed active).isSome = (rawActive r i closed != active) := by
  unfold filterTimer
  split
  · rename_i h; simp [h]
  · rename_i h; simp [bne, h]

/-- Channels changed without an end to FAULTED. -/
theorem keeps_chans (s : State) {u : ChanUnit}
    (h : ¬acked → ∀ x, (s.chans.get x).state = .faulted → (u.get x).state = .faulted) :
    Keeps acked s { s with chans := u } :=
  ⟨rfl, rfl, rfl, id, id, id, id, id, h⟩

theorem keeps_channelFault (s : State) (o : Fin 12) (k : DriverFault) : Keeps acked s (s.channelFault o k) := by
  unfold State.channelFault
  split
  · exact .refl s
  · split
    · refine keeps_chans s fun _ x hx => ?_
      rw [set_get]
      split
      · rfl
      · exact hx
    · exact .refl s

theorem settled_faulted {c : ChanRec} (h : c.state = .faulted) : c.settled = c := by
  unfold ChanRec.settled
  rw [h]
  cases c.settle <;> rfl

theorem keeps_settle (s : State) (c : Chan) :
    Keeps acked s { s with chans := s.chans.set c (s.chans.get c).settled } := by
  refine keeps_chans s fun _ x hx => ?_
  rw [set_get]
  split
  · rename_i h
    rw [← h, settled_faulted hx]
    exact hx
  · exact hx

theorem keeps_stopPress (s : State) (src : StopSource) : Keeps acked s (s.stopPress src) := by
  unfold State.stopPress
  dsimp only
  split
  · exact ((keeps_relieveAll s).trans (keeps_queue _ _)).trans (keeps_withdraw _ _ _)
  · exact keeps_relieveAll s

theorem keeps_ackPress (s : State) (h : acked) : Keeps acked s s.ackPress := by
  unfold State.ackPress
  extract_lets _ s1
  have pressed : Keeps acked s s1 := by
    refine Keeps.trans (t := { s with chans := s1.chans }) ?_ (.of_beside rfl rfl)
    exact keeps_chans s fun hn => absurd h hn
  split
  · exact pressed.trans (keeps_queue _ _)
  · exact pressed

theorem keeps_setHeld (s : State) (h : HeldDetector) : Keeps acked s (s.setHeld h) := .of_beside rfl rfl

theorem keeps_heldBegin (s : State) (f : LiftFn) : Keeps acked s (s.heldBegin f) :=
  .of_follows ((Follows.refl s).heldBegin f) fun h => h.heldBegin f

theorem keeps_heldEnd (s : State) (f : LiftFn) : Keeps acked s (s.heldEnd f) :=
  .of_follows ((Follows.refl s).heldEnd f) fun h => h.heldEnd f

theorem keeps_pendantOn (s : State) (i : Fin 16) : Keeps acked s (s.pendantOn i) := by
  unfold State.pendantOn
  split
  · split
    · exact (keeps_setHeld _ _).trans (keeps_heldBegin _ _)
    · exact .refl s
  · split
    · exact .refl s
    · exact (keeps_setHeld _ _).trans (keeps_heldEnd _ _)
  · exact .refl s

theorem keeps_pendantOff (s : State) (i : Fin 16) : Keeps acked s (s.pendantOff i) := by
  unfold State.pendantOff
  split
  · split
    · exact keeps_setHeld ..
    · exact .refl s
  · split
    · exact (keeps_setHeld _ _).trans (keeps_heldEnd _ _)
    · exact .refl s
  · split
    · exact keeps_setHeld ..
    · exact .refl s

theorem keeps_panelPress (s : State) (i : Fin 16) : Keeps acked s (s.panelPress i) := by
  unfold State.panelPress
  split
  · exact .of_beside rfl rfl
  · exact .refl s

theorem keeps_becameActive (s : State) {i : Fin 16} (h : i = 1 → acked) : Keeps acked s (s.becameActive i) := by
  unfold State.becameActive
  split
  · exact keeps_stopPress ..
  · split
    · exact keeps_ackPress s (h (by assumption))
    · split
      · split
        · exact keeps_pendantOn ..
        · split
          · exact .of_beside rfl rfl
          · split
            · exact .of_beside rfl rfl
            · exact .refl s
      · exact keeps_panelPress ..
      all_goals exact .refl s

theorem keeps_becameInactive (s : State) (i : Fin 16) : Keeps acked s (s.becameInactive i) := by
  unfold State.becameInactive
  split
  · split
    · exact keeps_pendantOff ..
    · exact .refl s
  all_goals exact .refl s

theorem keeps_filterExpiry (s : State) {i : Fin 16} (h : i = 1 → acked) : Keeps acked s (s.filterExpiry i) := by
  unfold State.filterExpiry
  extract_lets x level s1
  have expired : Keeps acked s s1 := keeps_setInput s (by simp [level])
  split
  · exact expired.trans (keeps_becameActive _ h)
  · exact expired.trans (keeps_becameInactive _ _)

theorem keeps_takeLatches (s : State) : Keeps acked s s.takeLatches := by
  unfold State.takeLatches
  extract_lets _ s1
  have taken : Keeps acked s s1 := .of_beside rfl rfl
  have touched (m : Manoeuvre) : Keeps acked s1 (s1.touchRequest m) :=
    .of_follows ((Follows.refl s1).touchRequest m) fun h => h.touchRequest m
  split
  · exact taken.trans (keeps_writeRequest _ _ _ _)
  · exact taken.trans (touched _)
  · exact taken.trans (touched _)
  · exact taken

theorem keeps_enterEnding (s : State) (o : RunOutcome) (c : Option Cause) : Keeps acked s (s.enterEnding o c) :=
  .of_follows ((Follows.refl s).enterEnding o c) fun h => h.enterEnding o c

theorem keeps_failStep (s : State) (c : CurStep) (d : StepDef) (x : Cause) (b : Bool) :
    Keeps acked s (s.failStep c d x b) :=
  .of_follows ((Follows.refl s).failStep c d x b) fun h => h.failStep c d x b

theorem keeps_stepDone (s : State) (c : CurStep) (d : StepDef) : Keeps acked s (s.stepDone c d) :=
  .of_follows ((Follows.refl s).stepDone c d) id

theorem keeps_serveLead {r : Run} (hr : s.runs.run = some r) (c : CurStep) (d : StepDef) :
    Keeps acked s (s.serveLead r c d) := by
  refine .of_follows (((Follows.refl s).setRun _).enterOpening c d) fun hs => ?_
  refine StackOk.of_runs ?_ (enterOpening_runs _ c d)
  exact stackOk_of_some rfl (hs r hr)

theorem keeps_setDriveTime (s : State) (ms : Nat) : Keeps acked s (s.setDriveTime ms) := .of_beside rfl rfl

/-! ## The service port and the membership timers -/

theorem keeps_portLine (s : State) (l : List RxChar) : Keeps acked s (s.portLine l) := by
  unfold State.portLine State.handOn
  split
  · exact .of_beside rfl rfl
  · split
    · refine Keeps.trans (t := { s with port := { s.port with buf := LineBuf.empty } }) (.of_beside rfl rfl) ?_
      generalize { s with port := { s.port with buf := LineBuf.empty } } = s1
      have request (n : Node) (q : ProbeReq) : Keeps acked s1 (s1.peerRequest n q) := by
        unfold State.peerRequest
        split
        · exact .of_beside rfl rfl
        · split
          · exact .of_beside rfl rfl
          · refine Keeps.trans ?_ (keeps_queue _ _)
            exact .of_beside rfl rfl
      unfold State.accept
      split
      · exact .refl s1
      case h_6 => exact request _ _
      case h_7 => exact request _ _
      all_goals exact .of_beside rfl rfl
    · exact .of_beside rfl rfl

theorem keeps_fallSilent (s : State) (n : Node) : Keeps acked s (s.fallSilent n) := by
  unfold State.fallSilent
  split
  · exact (keeps_setEntry _ _ _).trans (keeps_queue _ _)
  · split
    · exact keeps_setEntry ..
    · exact .refl s

/-! ## Every command -/

/-- The command is no reset. -/
def isReset : Instr → Bool
  | .powerOnReset _ | .externalReset _ => true
  | _ => false

/-- In the state a command goes on in, the relation holds. -/
def Keeping (acked : Prop) (s : State) (o : Host.Outcome State Fault Refusal) : Prop := ∀ t, o = .next t → Keeps acked s t

theorem keeping_next (h : Keeps acked s u) : Keeping acked s (.next u) := fun t ht => by
  obtain rfl := Host.Outcome.next.inj ht
  exact h

theorem keeping_finish (h : Keeps acked s u) : Keeping acked s (.next (finish s u)) := keeping_next (h.finish s)

/-- Every command but a reset keeps; the filter of the ACK input alone may end FAULTED. -/
theorem exec_keeping {c : Instr} (h : isReset c = false) (hack : c = .inputFilterExpiry 1 → acked) (s : State) :
    Keeping acked s (exec c s) := by
  cases c with
  | powerOnReset | externalReset => cases h
  | loopTest bits slot =>
    refine keeping_finish ?_
    unfold State.loopTest
    split
    · split
      · exact keeps_enterListen s
      · exact keeps_leave ..
    · exact .refl s
  | attemptStart =>
    refine keeping_next ?_
    split
    · exact .refl s
    · split
      · rename_i hmay
        refine .of_link rfl id fun hl => ?_
        simp only [State.mayAttempt, Bool.and_eq_true, decide_eq_true_eq] at hmay
        obtain ⟨⟨⟨-, hroom⟩, -⟩, -⟩ := hmay
        obtain ⟨hrx, -, hveto, htx⟩ := (linkLaws_iff _).1 hl
        exact (linkLaws_iff _).2 ⟨hrx, fun _ => by show s.link.rx.length ≤ 3; omega, hveto, htx⟩
      · exact .refl s
  | arbitrationLost =>
    refine keeping_finish ?_
    split
    · refine .of_link rfl id fun hl => ?_
      obtain ⟨hrx, -, hveto, htx⟩ := (linkLaws_iff _).1 hl
      exact (linkLaws_iff _).2 ⟨hrx, nofun, hveto, htx.filter _⟩
    all_goals exact .refl s
  | transmitError =>
    refine keeping_finish ?_
    split
    · exact keeps_attemptCounted s _ _ rfl
    all_goals exact .refl s
  | vetoSlot f vetoed => exact keeping_finish (keeps_slot ..)
  | transmitGuard =>
    refine keeping_finish ?_
    split
    · refine (keeps_leave s .unfit .transmitGuard).trans ?_
      exact .of_link rfl (fun _ => rfl) fun hl => (linkLaws_iff _).2 ((linkLaws_iff _).1 hl :)
    · exact .refl s
  | idleGap =>
    refine keeping_next ?_
    split
    · refine .of_link rfl id fun hl => ?_
      rw [linkLaws_iff] at hl ⊢
      obtain ⟨hrx, hown, hveto, htx⟩ := hl
      refine ⟨hrx, fun ho => ?_, hveto, htx⟩
      cases hline : s.link.line with
      | sending k x p => exact hown (by rw [hline]; rfl)
      | quiet | broken => simp [hline, LineUse.own] at ho
    · exact .refl s
  | halt => exact keeping_finish (takeHalt_kept.process ..)
  | clear => exact keeping_finish (takeClear_kept.process ..)
  | evict => exact keeping_finish (takeEvict_kept.process ..)
  | yield => exact keeping_finish (takeYield_kept.process ..)
  | claim => exact keeping_finish (takeClaim_kept.process ..)
  | snapshot => exact keeping_finish (takeSnapshot_kept.process ..)
  | join => exact keeping_finish (takeJoin_kept.process ..)
  | posture => exact keeping_finish (takePosture_kept.process ..)
  | probe => exact keeping_finish (takeProbe_kept.process ..)
  | reply => exact keeping_finish (takeReply_kept.process ..)
  | listenTimer =>
    refine keeping_finish ?_
    split
    · split
      · exact keeps_enterJoinWait s
      · exact .refl s
    · exact .refl s
  | isolationRestTimer =>
    refine keeping_finish ?_
    split
    · split
      · exact keeps_enterListen s
      · exact .refl s
    · exact .refl s
  | joinRepeatTimer =>
    refine keeping_finish ?_
    split
    · dsimp only
      split
      · refine Keeps.trans ?_ (keeps_queue _ _)
        exact .of_beside rfl rfl
      · exact .of_beside rfl rfl
    · exact .refl s
  | silenceTimer n =>
    refine keeping_finish ?_
    split
    · exact keeps_fallSilent s n
    · exact .refl s
  | rawInputChange i closed =>
    refine keeping_next ?_
    split
    · exact .refl s
    · exact keeps_setInput s (filterTimer_isSome ..)
  | inputFilterExpiry i =>
    refine keeping_finish ?_
    split
    · exact keeps_filterExpiry s fun hi => hack (by rw [hi])
    · exact .refl s
  | strokePulse | standstillTimer =>
    refine keeping_finish ?_
    split
    · exact .of_beside rfl rfl
    · exact .refl s
  | roadSpeedPulse =>
    refine keeping_finish ?_
    split
    · exact .of_beside rfl rfl
    · exact .refl s
  | requestWindowTimer =>
    refine keeping_finish ?_
    split
    · exact keeps_takeLatches s
    · exact .refl s
  | channelDriverFault o k => exact keeping_finish (keeps_channelFault ..)
  | lampFault o k =>
    refine keeping_finish ?_
    unfold State.lampFault
    split
    · exact .refl s
    · split
      · exact .of_beside rfl rfl
      · exact .refl s
  | outputFaultLatch o k =>
    refine keeping_finish ?_
    unfold State.outputFault
    split
    · split
      · exact .of_beside rfl rfl
      · exact .refl s
    · exact .refl s
  | claimWaitTimer | pauseTimer =>
    refine keeping_finish ?_
    split
    · split
      · exact keeps_enterEnding ..
      · exact .refl s
    · exact .refl s
  | leadTimer =>
    refine keeping_finish ?_
    split
    · rename_i hw
      split
      · exact keeps_serveLead (walked_spec hw).1 _ _
      · exact .refl s
    · exact .refl s
  | recoveryTimer =>
    refine keeping_finish ?_
    split
    · unfold State.recoveryOut
      split
      · exact keeps_failStep ..
      · exact keeps_failStep ..
      all_goals exact .refl s
    · exact .refl s
  | primingTimer =>
    refine keeping_finish ?_
    split
    · split
      · exact keeps_failStep ..
      · exact .refl s
    · exact .refl s
  | driveLimit =>
    refine keeping_finish ?_
    split
    · split
      · split
        · exact (keeps_setDriveTime _ _).trans (keeps_failStep _ _ _ _ _)
        · exact .refl s
      · exact .refl s
    · exact .refl s
  | driveTimeEnd =>
    refine keeping_finish ?_
    split
    · split
      · split
        · exact (keeps_setDriveTime _ _).trans (keeps_stepDone _ _ _)
        · exact .refl s
      · exact .refl s
    · exact .refl s
  | settleTimer c => exact keeping_finish (keeps_settle ..)
  | dutyLimit | restTimer | plausibilityTimer | groupTimer | testSlotTimer =>
    refine keeping_finish ?_
    split
    · exact .of_beside rfl rfl
    · exact .refl s
  | idleTimer =>
    refine keeping_next ?_
    split
    · exact .of_beside rfl rfl
    · exact .refl s
  | posturePeriodTimer =>
    refine keeping_next ?_
    split
    · refine Keeps.trans ?_ (keeps_queue _ _)
      exact .of_beside rfl rfl
    · exact .refl s
  | postureSpacingTimer =>
    refine keeping_next ?_
    split
    · dsimp only
      split
      · refine Keeps.trans ?_ (keeps_queue _ _)
        exact .of_beside rfl rfl
      · exact .of_beside rfl rfl
    · exact .refl s
  | hazardFlashTimer | cabFaultFlashTimer | nodeOkFlashTimer | answerSent => exact keeping_next (.of_beside rfl rfl)
  | timeTagTick =>
    exact keeping_next ⟨rfl, rfl, rfl, id, id, fun h => (logLaws_iff _).2 ((logLaws_iff _).1 h), id, id, fun _ _ => id⟩
  | status l | roster l | table l | log l | peerStatus l | peerLog l | error l => exact keeping_next (keeps_portLine s l)
  | relayTimer =>
    refine keeping_next ?_
    split
    · refine Keeps.trans ?_ (keeps_dropPending _ _ _)
      exact .of_beside rfl rfl
    · exact .refl s

end

end Sys2Proof.Kept
end

section
/-! The engines' moves leave pump, beacons, flashes and posture unit to the passes and notes that follow them. -/

namespace Sys2Proof.EngineBlocks

open Sys2Proof.Machine Sys2Proof.Laws Sys2Proof.Engines

/-- The blocks that only passes, notes and their own commands change. -/
def blocks (s : State) := (s.pump, s.beacon, s.cab, s.nodeOk, s.post)

variable (s : State)

@[simp] theorem command_blocks (c : Chan) (x : ChanCmd) : blocks (s.command c x) = blocks s := rfl

@[simp] theorem setRun_blocks (r : Run) : blocks (s.setRun r) = blocks s := rfl

@[simp] theorem setSteps_blocks (u : StepUnit) : blocks (s.setSteps u) = blocks s := rfl

@[simp] theorem stepTo_blocks (c : CurStep) (x : StepState) : blocks (s.stepTo c x) = blocks s := rfl

@[simp] theorem stepDone_blocks (c : CurStep) (d : StepDef) : blocks (s.stepDone c d) = blocks s := rfl

@[simp] theorem stepSkipped_blocks (c : CurStep) : blocks (s.stepSkipped c) = blocks s := rfl

@[simp] theorem stallStep_blocks (c : CurStep) (d : StepDef) : blocks (s.stallStep c d) = blocks s := rfl

@[simp] theorem driveStep_blocks (c : CurStep) (d : StepDef) : blocks (s.driveStep c d) = blocks s := rfl

@[simp] theorem toGate_blocks (c : CurStep) (g : Gate) : blocks (s.toGate c g) = blocks s := rfl

@[simp] theorem queue_blocks (f : TxFrame) : blocks (s.queue f) = blocks s := by
  unfold State.queue
  split <;> rfl

@[simp] theorem withdraw_blocks (k : Kind) (x : Option Node) : blocks (s.withdraw k x) = blocks s := rfl

@[simp] theorem queueYield_blocks : blocks s.queueYield = blocks s := by
  simp [State.queueYield]

@[simp] theorem queueClaim_blocks (m : Manoeuvre) : blocks (s.queueClaim m) = blocks s := by
  unfold State.queueClaim
  split
  · exact queue_blocks s _
  · rfl

@[simp] theorem openRec_blocks (n : Nat) : blocks (s.openRec n) = blocks s := by
  unfold State.openRec
  split <;> rfl

@[simp] theorem arm_blocks (n : Nat) (a b : Bool) : blocks (s.arm n a b) = blocks s := by
  unfold State.arm
  dsimp only
  split
  · exact openRec_blocks _ n
  · rfl

@[simp] theorem enterEnding_blocks (o : RunOutcome) (c : Option Cause) : blocks (s.enterEnding o c) = blocks s := by
  unfold State.enterEnding
  split <;> rfl

@[simp] theorem leaveEnding_blocks (r : Run) : blocks (s.leaveEnding r) = blocks s := by
  unfold State.leaveEnding
  dsimp only
  split
  · rfl
  · exact (queueYield_blocks _).trans rfl

@[simp] theorem failStep_blocks (c : CurStep) (d : StepDef) (x : Cause) (b : Bool) :
    blocks (s.failStep c d x b) = blocks s := by
  unfold State.failStep
  dsimp only
  split
  · rfl
  · split
    · exact (openRec_blocks _ _).trans rfl
    · rfl

@[simp] theorem enterOpening_blocks (c : CurStep) (d : StepDef) : blocks (s.enterOpening c d) = blocks s := by
  unfold State.enterOpening
  dsimp only
  split <;> rfl

@[simp] theorem leaveArming_blocks (r : Run) (c : CurStep) (d : StepDef) : blocks (s.leaveArming r c d) = blocks s := by
  unfold State.leaveArming
  split
  · rfl
  · exact enterOpening_blocks s c d

@[simp] theorem makeNest_blocks (r : Run) (d : StepDef) (m : Manoeuvre) : blocks (s.makeNest r d m) = blocks s :=
  (arm_blocks _ _ _ _).trans rfl

@[simp] theorem nestTrigger_blocks (r : Run) (c : CurStep) (d : StepDef) (m : Manoeuvre) :
    blocks (s.nestTrigger r c d m) = blocks s := by
  unfold State.nestTrigger
  split
  · exact failStep_blocks ..
  · split
    · exact failStep_blocks ..
    · split
      · exact makeNest_blocks ..
      · exact failStep_blocks ..

@[simp] theorem completeTop_blocks (r : Run) : blocks (s.completeTop r) = blocks s := by
  unfold State.completeTop
  split <;> simp

@[simp] theorem failTop_blocks (r : Run) (c : Option Cause) : blocks (s.failTop r c) = blocks s := by
  unfold State.failTop
  split
  · simp
  · dsimp only
    split
    · simp
    · exact (failStep_blocks _ _ _ _ _).trans rfl

@[simp] theorem takeOutcome_blocks (r : Run) (o : RunOutcome) (c : Option Cause) :
    blocks (s.takeOutcome r o c) = blocks s := by
  unfold State.takeOutcome
  split
  · simp
  · dsimp only
    split <;> simp

@[simp] theorem relieveOthers_blocks (c : Chan) : blocks (s.relieveOthers c) = blocks s := by
  unfold State.relieveOthers
  generalize allChans = l
  induction l generalizing s with
  | nil => rfl
  | cons x l ih =>
    rw [List.foldl_cons, ih]
    split <;> rfl

variable {s} {t : State} {r : Run} {c : CurStep} {d : StepDef}

theorem startRecovery_blocks (h : s.startRecovery = some t) : blocks t = blocks s := by
  unfold State.startRecovery at h
  split at h <;> cases h
  rfl

theorem armingMove_blocks (h : s.armingMove r c d = some t) : blocks t = blocks s := by
  unfold State.armingMove at h
  split at h
  · split at h <;> cases h
    · exact (relieveOthers_blocks s d.chan :)
    · rfl
  · split at h
    · cases h; rfl
    · exact startRecovery_blocks h
  · split at h
    · split at h <;> cases h <;> rfl
    · cases h; rfl
  · split at h
    · cases h; exact leaveArming_blocks ..
    · exact startRecovery_blocks h

theorem drivingMove_blocks (h : s.drivingMove r c d = some t) : blocks t = blocks s := by
  unfold State.drivingMove at h
  split at h
  · cases h; rfl
  · split at h
    · cases h; exact nestTrigger_blocks ..
    · split at h
      · cases h; rfl
      · split at h
        · split at h
          · cases h
          · cases h; simp
        all_goals cases h; simp

theorem plainMove_blocks (h : s.plainMove r c d = some t) : blocks t = blocks s := by
  unfold State.plainMove at h
  cases hc : c.state <;> simp only [hc] at h
  case arming => exact armingMove_blocks h
  case driving => exact drivingMove_blocks h
  all_goals repeat' split at h
  all_goals cases h <;> simp [State.returnToArming]

theorem stepMove_blocks (h : stepMove s = some t) : blocks t = blocks s := by
  unfold stepMove at h
  split at h
  · split at h
    · split at h
      · cases h; simp
      · split at h
        · cases h
        · split at h
          · cases h; simp
          · split at h
            · cases h; simp
            · exact plainMove_blocks h
    · cases h
  · cases h

theorem runMove_blocks (h : runMove s = some t) : blocks t = blocks s := by
  unfold runMove at h
  repeat' split at h
  all_goals cases h <;> simp

theorem engineMove_blocks (h : engineMove s = some t) : blocks t = blocks s := by
  unfold engineMove at h
  split at h
  · cases h
    exact stepMove_blocks (by assumption)
  · exact runMove_blocks h

/-! ## What follows an event -/

/-- Where every note and every pass keeps what a predicate reads of these blocks, `finish` keeps it. -/
theorem finish_keeps_blocks {P : State → Prop} (hcongr : ∀ s t, blocks t = blocks s → outer t = outer s → P s → P t)
    (hnote : ∀ old s, P s → P (State.noteChange old s)) (hpass : ∀ f ∈ passes, ∀ s, P s → P (f s)) (old s : State)
    (h : P s) : P (finish old s) :=
  finish_keeps (fun s t ht => hcongr s t (engineMove_blocks ht) (engineMove_outer ht)) hnote hpass old s h

/-- The pump's running time and its rest are no matter of notes and passes. -/
theorem finish_pump_counts (old s : State) :
    (finish old s).pump.runTime = s.pump.runTime ∧ (finish old s).pump.rest = s.pump.rest := by
  refine finish_keeps_blocks (P := fun t => t.pump.runTime = s.pump.runTime ∧ t.pump.rest = s.pump.rest) ?_ ?_ ?_ old s
    ⟨rfl, rfl⟩
  · intro t u hb _ h
    simp only [blocks, Prod.mk.injEq] at hb
    rwa [hb.1]
  · intro o t h
    rwa [(noteChange_blocks o t).1]
  · refine passes_cases ?_ ?_ ?_ ?_ ?_ ?_ ?_ ?_ ?_
    · intro t h; unfold snapshotPass; split
      · exact h
      · split
        · have hq := queue_blocks t .snapshot
          simp only [blocks, Prod.mk.injEq] at hq
          rwa [hq.1]
        · exact h
    · exact fun _ h => h
    · intro g t h; unfold demandPass; split <;> exact h
    · intro t h; unfold lampTestPass; split <;> exact h
    · intro t h; unfold cabPass; split <;> exact h
    · intro t h; unfold nodeOkPass; split <;> exact h
    · intro t h; unfold believePass; split <;> exact h
    · intro t h
      have hturn (p : PumpUnit) (b : Bool) : (p.turn b).runTime = p.runTime ∧ (p.turn b).rest = p.rest := by
        unfold PumpUnit.turn
        split
        · exact ⟨rfl, rfl⟩
        · split <;> exact ⟨rfl, rfl⟩
      exact ⟨(hturn ..).1.trans h.1, (hturn ..).2.trans h.2⟩
    · intro t h; unfold plausPass; split <;> exact h

/-- A departure, finished, keeps what R39 lists beside what it resets. -/
theorem leave_keptOnLeaving (old s : State) (d : Departure) (c : Cause) :
    keptOnLeaving s (finish old (s.leave d c)) := by
  obtain ⟨hstraps, hserial, -, -, hlines, -, hpending, htag, -⟩ := outer_fields (endStack_outer s .isolated)
  have hrun : (s.leave d c).runs.run = none := by rw [(leave_runs s d c).1]
  obtain ⟨hruns, -⟩ := inner_fields (finish_inner_of_no_run (old := old) hrun)
  obtain ⟨htime, hrest⟩ := finish_pump_counts old (s.leave d c)
  obtain ⟨hpump, -⟩ := endStack_others s .isolated
  have hleft : (s.leave d c).lines.inputs = s.lines.inputs ∧ (s.leave d c).lines.height = s.lines.height ∧
      (s.leave d c).lines.standstill = s.lines.standstill ∧ (s.leave d c).lines.standTimer = s.lines.standTimer ∧
      (s.leave d c).lines.outLatch = s.lines.outLatch := by
    rw [← hlines]
    exact ⟨rfl, rfl, rfl, rfl, rfl⟩
  obtain ⟨hinputs, hheight, hstand, htimer, hlatch⟩ := hleft
  refine ⟨by rw [finish_straps]; exact hstraps, by rw [finish_serial]; exact hserial, by rw [finish_tag]; exact htag,
    by rwa [finish_lines], by rwa [finish_lines], by rwa [finish_lines], by rwa [finish_lines], by rwa [finish_lines],
    by rw [hruns, (leave_runs s d c).1], htime.trans ?_, hrest.trans ?_, by rw [finish_pending]; exact hpending⟩
  · exact congrArg PumpUnit.runTime hpump
  · exact congrArg PumpUnit.rest hpump

end Sys2Proof.EngineBlocks
end

section
/-! Every step keeps the laws of the single blocks (O58), and what `exec_keeping` says of commands, queue, serial, straps,
driver cut-off and FAULTED channels (O3, O16, O35). -/

namespace Sys2Proof.BlockLaws

open Sys2Proof.Machine Sys2Proof.Laws Sys2Proof.Engines Sys2Proof.RunStack Sys2Proof.FrameProcessing Sys2Proof.Kept
  Sys2Proof.EngineBlocks

/-! ## How a command ends -/

/-- The laws of the pump output and of the beacons say the same of both states. -/
def SameDrivers (s t : State) : Prop := t.pumpLaws = s.pumpLaws ∧ t.beaconLaws = s.beaconLaws

/-- A command ends with what follows in the same event, or it leaves the drivers' laws as they are, or it is a reset. -/
inductive Ends (s : State) (c : Instr) : Prop
  | finished (u : State) (h : exec c s = .next (finish s u))
  | quiet (u : State) (h : exec c s = .next u) (same : SameDrivers s u)
  | reset (h : isReset c = true)

theorem SameDrivers.refl (s : State) : SameDrivers s s := ⟨rfl, rfl⟩

/-- A change of link controller, port and posture unit. -/
theorem SameDrivers.of_link_port_post {s t : State}
    (h : ∃ link port post, t = { s with link := link, port := port, post := post }) : SameDrivers s t := by
  obtain ⟨_, _, _, rfl⟩ := h
  exact ⟨rfl, rfl⟩

theorem queue_eq (s : State) (f : TxFrame) : s.queue f = { s with link := (s.queue f).link } := by
  unfold State.queue
  split <;> rfl

theorem dropPending_eq (s : State) (k : Kind) (x : Option Node) :
    s.dropPending k x = { s with link := (s.dropPending k x).link } := by
  unfold State.dropPending
  split <;> rfl

theorem peerRequest_eq (s : State) (n : Node) (q : ProbeReq) :
    ∃ link port, s.peerRequest n q = { s with link := link, port := port } := by
  unfold State.peerRequest
  split
  · exact ⟨_, _, rfl⟩
  · split
    · exact ⟨_, _, rfl⟩
    · rw [queue_eq]
      exact ⟨_, _, rfl⟩

/-- A line changes the port, and by a PEER request the transmit list. -/
theorem portLine_eq (s : State) (l : List RxChar) :
    ∃ link port, s.portLine l = { s with link := link, port := port } := by
  unfold State.portLine State.handOn
  split
  · exact ⟨_, _, rfl⟩
  · split
    · unfold State.accept
      split
      case h_6 | h_7 =>
        obtain ⟨link, port, h⟩ := peerRequest_eq { s with port := { s.port with buf := LineBuf.empty } } _ _
        exact ⟨link, port, h⟩
      all_goals exact ⟨_, _, rfl⟩
    · exact ⟨_, _, rfl⟩

theorem exec_ends (c : Instr) (s : State) : Ends s c := by
  cases c with
  | powerOnReset | externalReset => exact .reset rfl
  | attemptStart =>
    refine .quiet _ rfl ?_
    split
    · exact .refl s
    · split
      · exact .of_link_port_post ⟨_, _, _, rfl⟩
      · exact .refl s
  | idleGap =>
    refine .quiet _ rfl ?_
    split
    · exact .of_link_port_post ⟨_, _, _, rfl⟩
    · exact .refl s
  | rawInputChange i closed =>
    refine .quiet _ rfl ?_
    split
    · exact .refl s
    · exact ⟨rfl, rfl⟩
  | idleTimer =>
    refine .quiet _ rfl ?_
    split
    · exact ⟨rfl, rfl⟩
    · exact .refl s
  | posturePeriodTimer =>
    refine .quiet _ rfl (.of_link_port_post ?_)
    split
    · rw [queue_eq]
      exact ⟨_, _, _, rfl⟩
    · exact ⟨_, _, _, rfl⟩
  | postureSpacingTimer =>
    refine .quiet _ rfl (.of_link_port_post ?_)
    split
    · dsimp only
      split
      · rw [queue_eq]
        exact ⟨_, _, _, rfl⟩
      · exact ⟨_, _, _, rfl⟩
    · exact ⟨_, _, _, rfl⟩
  | hazardFlashTimer | cabFaultFlashTimer | nodeOkFlashTimer | timeTagTick | answerSent => exact .quiet _ rfl ⟨rfl, rfl⟩
  | status l | roster l | table l | log l | peerStatus l | peerLog l | error l =>
    refine .quiet _ rfl (.of_link_port_post ?_)
    obtain ⟨_, _, h⟩ := portLine_eq s l
    exact ⟨_, _, _, h⟩
  | relayTimer =>
    refine .quiet _ rfl (.of_link_port_post ?_)
    split
    · rw [dropPending_eq]
      exact ⟨_, _, _, rfl⟩
    · exact ⟨_, _, _, rfl⟩
  | _ => exact .finished _ rfl

/-! ## Resets -/

theorem externalReset_eq (s : State) (p : StrapPins) :
    exec (.externalReset p) s = .next ((s.restarted p s.log.cutOpen).writeRec restartRec) := rfl

theorem powerOnReset_eq (s : State) (p : StrapPins) : exec (.powerOnReset p) s = .next (s.restarted p State.reset.log) := rfl

theorem restarted_filterLaws (s : State) (p : StrapPins) (l : LogUnit) : (s.restarted p l).filterLaws = true := by
  simp [State.filterLaws, State.restarted, LineUnit.restart, Input.restart, filterTimer_isSome]

theorem cutOpen_laws {l : LogUnit} (h : l.laws = true) : l.cutOpen.laws = true :=
  logLaws_map h (fun x => by split <;> rfl) 0

theorem restarted_pumpLaws (s : State) (p : StrapPins) (l : LogUnit) : (s.restarted p l).pumpLaws = true := by
  have hm : (s.restarted p l).member.mstate = .start := rfl
  have hon : (s.restarted p l).pump.on = false := rfl
  simp [State.pumpLaws, State.pumpWanted, hm, hon]

theorem restarted_beaconLaws (s : State) (p : StrapPins) (l : LogUnit) : (s.restarted p l).beaconLaws = true := by
  have hm : (s.restarted p l).member.mstate = .start := rfl
  have hz : (s.restarted p l).beacon.hazard = false := rfl
  have hl : (s.restarted p l).latched = false := rfl
  have hd : ∀ g, ((s.restarted p l).beacon.get g).demanded = false := fun g => by cases g <;> rfl
  simp [State.beaconLaws, State.hazardCause, State.demand, hm, hz, hl, hd]

/-- What a step keeps of the laws of the single blocks. -/
def KeepsLaws (s t : State) : Prop :=
  (s.stackLaws = true → t.stackLaws = true) ∧ (s.link.laws = true → t.link.laws = true) ∧
    (s.log.laws = true → t.log.laws = true) ∧ (s.filterLaws = true → t.filterLaws = true) ∧
    (s.pumpLaws = true → t.pumpLaws = true) ∧ (s.beaconLaws = true → t.beaconLaws = true)

theorem keepsLaws_of {acked : Prop} {s t : State} (h : Keeps acked s t) (hpump : s.pumpLaws = true → t.pumpLaws = true)
    (hbeacon : s.beaconLaws = true → t.beaconLaws = true) : KeepsLaws s t :=
  ⟨fun hs => (stackLaws_iff t).2 (h.stack ((stackLaws_iff s).1 hs)), h.link, h.log, h.filters, hpump, hbeacon⟩

/-- The reset state, with a log that keeps its law. -/
theorem restarted_keepsLaws (s : State) (p : StrapPins) {l : LogUnit} (h : s.log.laws = true → l.laws = true) :
    KeepsLaws s (s.restarted p l) :=
  ⟨fun _ => rfl, fun _ => rfl, h, fun _ => restarted_filterLaws s p l, fun _ => restarted_pumpLaws s p l,
    fun _ => restarted_beaconLaws s p l⟩

theorem exec_keepsLaws {c : Instr} {s t : State} (ht : exec c s = .next t) : KeepsLaws s t := by
  cases hreset : isReset c with
  | true =>
    cases c with
    | powerOnReset p =>
      obtain rfl := Host.Outcome.next.inj ht
      exact restarted_keepsLaws s p fun _ => rfl
    | externalReset p =>
      obtain rfl := Host.Outcome.next.inj ht
      obtain ⟨hstack, hlink, hlog, hfilter, hpump, hbeacon⟩ := restarted_keepsLaws s p cutOpen_laws
      exact ⟨hstack, hlink, fun h => writeRec_logLaws (hlog h) _, hfilter, hpump, hbeacon⟩
    | _ => cases hreset
  | false =>
    have hkeeps : Keeps True s t := exec_keeping hreset (fun _ => trivial) s t ht
    cases exec_ends c s with
    | reset h => rw [hreset] at h; cases h
    | finished u h =>
      obtain rfl := Host.Outcome.next.inj (h.symm.trans ht)
      exact keepsLaws_of hkeeps (fun _ => finish_pumpLaws s u) fun _ => finish_beaconLaws s u
    | quiet u h same =>
      obtain rfl := Host.Outcome.next.inj (h.symm.trans ht)
      exact keepsLaws_of hkeeps (fun hp => same.1.trans hp) fun hb => same.2.trans hb

theorem keeps_counts (s : State) : Keeps True s s.countDrive.countPump := by
  have drive : Keeps True s s.countDrive := by
    unfold State.countDrive
    split
    · split
      · exact .of_beside rfl rfl
      · exact .refl s
    · exact .refl s
  refine drive.trans ?_
  unfold State.countPump
  split
  · exact .of_beside rfl rfl
  · exact .refl _

/-- Settles O58: a command that ends with what follows in the same event leaves pump and beacons lawful whatever was
before; the other laws are kept operation by operation (`exec_keeping`). -/
theorem everyStepKeepsTheBlockLaws : Obligations.EveryStepKeepsTheBlockLaws := by
  unfold Obligations.EveryStepKeepsTheBlockLaws
  intro s t ht
  unfold step at ht
  split at ht
  · obtain rfl := Host.Outcome.next.inj ht
    exact keepsLaws_of ((keeps_counts s).finish s) (fun _ => finish_pumpLaws s _) fun _ => finish_beaconLaws s _
  · rename_i c q _
    have hpass : KeepsLaws (s.withPending q) t := exec_keepsLaws ht
    exact hpass

/-! ## Commands, queue, serial and straps -/

/-- Every command goes on. -/
theorem exec_next (c : Instr) (s : State) : ∃ t, exec c s = .next t := by
  cases c <;> exact ⟨_, rfl⟩

/-- Settles O3: the arms of `exec` all go on; queue, serial and straps by `exec_keeping`, and in a reset by its definition. -/
theorem everyCommandGoesOn : Obligations.EveryCommandGoesOn := by
  unfold Obligations.EveryCommandGoesOn
  refine ⟨fun c s => ?_, fun s => ?_⟩
  · obtain ⟨t, ht⟩ := exec_next c s
    cases hreset : isReset c with
    | true =>
      cases c with
      | powerOnReset p => exact ⟨_, rfl, rfl, rfl, fun h => absurd rfl (h p)⟩
      | externalReset p => exact ⟨_, rfl, rfl, rfl, fun _ h => absurd rfl (h p)⟩
      | _ => cases hreset
    | false =>
      have hkeeps : Keeps True s t := exec_keeping hreset (fun _ => trivial) s t ht
      exact ⟨t, ht, hkeeps.pending, hkeeps.serial, fun _ _ => hkeeps.straps⟩
  · unfold step
    split
    · exact ⟨_, rfl⟩
    · exact exec_next ..

theorem isReset_of_ne {c : Instr} (hpower : ∀ p, c ≠ .powerOnReset p) (hext : ∀ p, c ≠ .externalReset p) :
    isReset c = false := by
  cases c with
  | powerOnReset p => exact absurd rfl (hpower p)
  | externalReset p => exact absurd rfl (hext p)
  | _ => rfl

/-- The same state with the driver cut off. -/
def cutOff (s : State) : State := { s with link := { s.link with driverCut := true } }

theorem leave_cutOff (s : State) (d : Departure) (c : Cause) : (cutOff s).leave d c = cutOff (s.leave d c) := by
  unfold State.leave State.endStack
  cases h : s.runs.run <;> simp only [cutOff, h] <;> rfl

theorem hasLeft_of_cutOff {s t : State} {d : Departure} {c : Cause} (h : hasLeft (cutOff s) t d c) : hasLeft s t d c := by
  unfold hasLeft State.runRecordsEnded at h ⊢
  cases hr : s.runs.run <;> simp only [cutOff, hr] at h ⊢ <;> exact h

theorem mayQueue_iff (s : State) : s.mayQueue = true ↔ s.member.mstate = .joinWait ∨ s.member.mstate = .member := by
  simp [State.mayQueue]

theorem exec_transmitGuard {s : State} (h : s.mayQueue = true) :
    exec .transmitGuard s = .next (finish s ((cutOff s).leave .unfit .transmitGuard)) := by
  rw [leave_cutOff]
  change Host.Outcome.next (finish s (if s.mayQueue then _ else _)) = _
  rw [if_pos h]
  rfl

/-- Settles O16: the guard's departure is that of the node with its driver cut off (`leave_cutOff`), and no command but a
reset connects the driver (`exec_keeping`). -/
theorem transmitGuardCutsTheDriverOff : Obligations.TransmitGuardCutsTheDriverOff := by
  unfold Obligations.TransmitGuardCutsTheDriverOff
  refine ⟨fun s hm => ⟨_, exec_transmitGuard ((mayQueue_iff s).2 hm), ?_, ?_, ?_⟩, fun c s t ht hpower hext hcut => ?_⟩
  · exact hasLeft_of_cutOff (leave_hasLeft s (cutOff s) .unfit .transmitGuard)
  · exact leave_keptOnLeaving s (cutOff s) .unfit .transmitGuard
  · rw [finish_driverCut, leave_cutOff]
    rfl
  · have hkeeps : Keeps True s t := exec_keeping (isReset_of_ne hpower hext) (fun _ => trivial) s t ht
    exact hkeeps.cut hcut

end Sys2Proof.BlockLaws
end

section
/-! The laws of a claim list (O25): one record per claimant, no resource granted twice, at most 12 units granted. -/

namespace Sys2Proof.ClaimLaws

open Sys2Proof.Machine Sys2Proof.Laws Sys2Proof.ClaimTable

/-- Two records do not both hold a resource. -/
def Apart (a b : ClaimRec) : Prop := a.state = .granted → b.state = .granted → a.set.meets b.set = false

theorem meets_comm (a b : ResSet) : a.meets b = b.meets a := by
  simp only [ResSet.meets, Bool.and_comm]

theorem Apart.symm {a b : ClaimRec} (h : Apart a b) : Apart b a := fun hb ha => by
  rw [meets_comm]
  exact h ha hb

theorem onePerClaimant_iff (l : List ClaimRec) : onePerClaimant l = true ↔ (l.map ClaimRec.claimant).Nodup := by
  induction l with
  | nil => simp [onePerClaimant]
  | cons r l ih =>
    simp only [onePerClaimant, Bool.and_eq_true, ih, List.all_eq_true, bne_iff_ne, List.map_cons, List.nodup_cons,
      List.mem_map, not_exists, not_and]

theorem grantsDisjoint_iff (l : List ClaimRec) : grantsDisjoint l = true ↔ l.Pairwise Apart := by
  induction l with
  | nil => simp [grantsDisjoint]
  | cons r l ih =>
    have head : (r.state == .waiting || l.all fun q => q.state == .waiting || !r.set.meets q.set) = true ↔
        ∀ q ∈ l, Apart r q := by
      cases hr : r.state with
      | waiting => simp [Apart, hr]
      | granted =>
        simp only [Apart, hr, List.all_eq_true, Bool.or_eq_true, beq_iff_eq, Bool.not_eq_true', reduceCtorEq, false_or,
          forall_const]
        refine forall₂_congr fun q _ => ?_
        cases q.state <;> simp
    rw [grantsDisjoint, Bool.and_eq_true, ih, List.pairwise_cons, head]

/-- The laws of a claim list, as propositions. -/
theorem claimLaws_iff (l : List ClaimRec) :
    claimLaws l = true ↔ (l.map ClaimRec.claimant).Nodup ∧ l.Pairwise Apart ∧ supplyInUse l ≤ 12 := by
  rw [claimLaws, Bool.and_eq_true, Bool.and_eq_true, onePerClaimant_iff, grantsDisjoint_iff, decide_eq_true_eq, and_assoc]

theorem claimLaws_nil : claimLaws [] = true := rfl

/-! ## Fewer records, and a WAITING one more -/

theorem supplyInUse_sublist {l k : List ClaimRec} (h : l.Sublist k) : supplyInUse l ≤ supplyInUse k :=
  ((h.filter _).map _).sum_le_sum fun _ _ => Nat.zero_le _

theorem claimLaws_sublist {l k : List ClaimRec} (h : l.Sublist k) (hk : claimLaws k = true) : claimLaws l = true := by
  rw [claimLaws_iff] at hk ⊢
  obtain ⟨hone, hapart, hsum⟩ := hk
  exact ⟨hone.sublist (h.map _), hapart.sublist h, (supplyInUse_sublist h).trans hsum⟩

theorem claimLaws_removeClaim {l : List ClaimRec} (h : claimLaws l = true) (n : Node) :
    claimLaws (removeClaim l n) = true :=
  claimLaws_sublist List.filter_sublist h

theorem claimLaws_append_waiting {l : List ClaimRec} (h : claimLaws l = true) {r : ClaimRec} (hr : r.state = .waiting)
    (hn : hasClaim l r.claimant = false) : claimLaws (l ++ [r]) = true := by
  rw [claimLaws_iff] at h ⊢
  obtain ⟨hone, hapart, hsum⟩ := h
  have hnone : ∀ q ∈ l, q.claimant ≠ r.claimant := by simpa [hasClaim] using hn
  refine ⟨?_, ?_, ?_⟩
  · rw [List.map_append, List.nodup_append]
    exact ⟨hone, by simp, by simpa using hnone⟩
  · rw [List.pairwise_append]
    exact ⟨hapart, List.pairwise_singleton .., fun a _ b hb _ hg => by simp_all⟩
  · rw [supplyInUse_append, supplyInUse_cons, if_neg (by simp [hr])]
    exact hsum

/-! ## Evaluation -/

/-- One visit keeps the laws. -/
theorem claimLaws_visited {older younger : List ClaimRec} {r : ClaimRec} (h : claimLaws (older ++ r :: younger) = true) :
    claimLaws (older ++ visited older younger r :: younger) = true := by
  by_cases hv : r.state = .waiting ∧ mayGrant older younger r
  · obtain ⟨hw, hm⟩ := hv
    rw [visited_of_mayGrant hw hm]
    obtain ⟨hfree, hunits, -, -⟩ := hm
    rw [claimLaws_iff] at h ⊢
    obtain ⟨hone, hapart, -⟩ := h
    refine ⟨by simpa using hone, ?_, ?_⟩
    · rw [List.pairwise_append, List.pairwise_cons] at hapart ⊢
      obtain ⟨hold, ⟨-, hyoung⟩, hcross⟩ := hapart
      refine ⟨hold, ⟨fun q hq _ hg => ?_, hyoung⟩, fun a ha b hb => ?_⟩
      · rw [meets_comm]
        exact hfree q (List.mem_append_right _ hq) hg
      · rcases List.mem_cons.1 hb with rfl | hb
        · exact fun hg _ => hfree a (List.mem_append_left _ ha) hg
        · exact hcross a ha b (List.mem_cons_of_mem _ hb)
    · rw [supplyInUse_append] at hunits
      rw [supplyInUse_append, supplyInUse_cons, if_pos rfl]
      show supplyInUse older + (r.units + supplyInUse younger) ≤ 12
      omega
  · rwa [visited_of_not hv]

theorem claimLaws_grantWalk {rest : List ClaimRec} : ∀ {older : List ClaimRec}, claimLaws (older ++ rest) = true →
    claimLaws (grantWalk older rest) = true := by
  induction rest with
  | nil => intro older h; simpa [grantWalk] using h
  | cons r rest ih =>
    intro older h
    rw [grantWalk_cons]
    refine ih ?_
    rw [List.append_assoc]
    exact claimLaws_visited h

theorem claimLaws_evalGrants {l : List ClaimRec} (h : claimLaws l = true) : claimLaws (evalGrants l) = true :=
  claimLaws_grantWalk h

/-- A GRANTED record stays GRANTED. -/
theorem mem_evalGrants {l : List ClaimRec} {r : ClaimRec} (hr : r ∈ l) (hg : r.state = .granted) : r ∈ evalGrants l := by
  obtain ⟨w, hw, e⟩ := grantWalk_eq_append l []
  rw [evalGrants, e, List.nil_append]
  exact mem_of_raised hw hr hg

/-- Settles O25: each visit of the walk keeps the laws (`claimLaws_visited`), and so do fewer records and a WAITING one
more. -/
theorem claimListOperationsKeepItsLaws : Obligations.ClaimListOperationsKeepItsLaws := by
  unfold Obligations.ClaimListOperationsKeepItsLaws
  intro l h
  refine ⟨claimLaws_evalGrants h, fun r => mem_evalGrants, fun n => ⟨claimLaws_removeClaim h n, ?_, ?_⟩, fun r =>
    claimLaws_append_waiting h⟩
  · simp [hasClaim, removeClaim]
  · intro r hr hn
    exact List.mem_filter.2 ⟨hr, by simpa using hn⟩

end Sys2Proof.ClaimLaws
end

section
/-! The laws behind every motion (R147): what they say, and that the moves of the engines keep them. -/

namespace Sys2Proof.Motions

open Sys2Proof.Machine Sys2Proof.Laws Sys2Proof.Engines Sys2Proof.ClaimTable Sys2Proof.ClaimLaws

/-! ## The laws -/

/-- A run's claim mode as its phase asks for it (R98, R105, R107). -/
def ModeOk (r : Run) (granted : Prop) : Prop :=
  ((r.phase = .running ∨ r.phase = .paused) → r.mode = .held ∧ granted) ∧
    (r.phase = .claiming → r.mode = .queued ∨ r.mode = .deferred)

/-- A channel is DRIVING only for the step that is DRIVING (R147). -/
def Drives (s : State) : Prop := ∀ x, (s.chans.get x).state.isDriving = true → s.drivenChan = some x

/-- What holds of the replica, with or without a run. -/
structure Grounds (s : State) : Prop where
  claims : claimLaws s.table.claims = true
  halt : s.table.halt.laws = true
  latched : s.table.halt.latch ≠ none → s.table.claims = [] ∧ s.runs.run = none
  member : s.runs.run ≠ none → s.member.mstate = .member

/-- The laws behind every motion. -/
structure Motion (s : State) : Prop extends Grounds s where
  mode : ∀ r, s.runs.run = some r → ModeOk r (s.ownGranted = true)
  drives : Drives s

theorem drives_iff (s : State) : s.driveLaws = true ↔ Drives s := by
  have hall : ∀ c, c ∈ allChans := by intro c; cases c <;> decide
  simp only [State.driveLaws, Drives, List.all_eq_true, hall, true_implies, Bool.or_eq_true, Bool.not_eq_true',
    beq_iff_eq]
  refine forall_congr' fun c => ?_
  cases (s.chans.get c).state.isDriving <;> simp

theorem modeLaws_iff (s : State) : s.modeLaws = true ↔ ∀ r, s.runs.run = some r → ModeOk r (s.ownGranted = true) := by
  unfold State.modeLaws
  cases s.runs.run with
  | none => simp
  | some r => cases hp : r.phase <;> simp [ModeOk, hp]

theorem haltLaws_iff (s : State) : s.haltLaws = true ↔ s.table.halt.laws = true ∧
    (s.table.halt.latch ≠ none → s.table.claims = [] ∧ s.runs.run = none) ∧
    (s.runs.run ≠ none → s.member.mstate = .member) := by
  have hlatch : (s.latched = false ∨ s.table.claims = [] ∧ s.runs.run = none) ↔
      (s.table.halt.latch ≠ none → s.table.claims = [] ∧ s.runs.run = none) := by
    rw [← latched_iff]
    cases s.latched <;> simp
  have hmember : (s.runs.run = none ∨ s.member.mstate = .member) ↔ (s.runs.run ≠ none → s.member.mstate = .member) := by
    rw [← or_iff_not_imp_left]
  simp only [State.haltLaws, State.isMember, Bool.and_eq_true, Bool.or_eq_true, Bool.not_eq_true', List.isEmpty_iff,
    Option.isNone_iff_eq_none, beq_iff_eq, hlatch, hmember, and_assoc]

theorem motionLaws_iff (s : State) : s.motionLaws = true ↔ Motion s := by
  simp only [State.motionLaws, Bool.and_eq_true, haltLaws_iff, modeLaws_iff, drives_iff]
  constructor
  · rintro ⟨⟨⟨hclaims, hhalt, hlatched, hmember⟩, hmode⟩, hdrives⟩
    exact ⟨⟨hclaims, hhalt, hlatched, hmember⟩, hmode, hdrives⟩
  · intro h
    exact ⟨⟨⟨h.claims, h.halt, h.latched, h.member⟩, h.mode⟩, h.drives⟩

/-! ## What the laws read -/

/-- What the laws read of a state. -/
def core (s : State) := (s.straps, s.member.mstate, s.table, s.runs.run, s.steps.cur, s.chans)

section

variable {s t : State}

theorem drivenChan_congr (hstraps : t.straps = s.straps) (hrun : t.runs.run = s.runs.run)
    (hcur : t.steps.cur = s.steps.cur) : t.drivenChan = s.drivenChan := by
  simp only [State.drivenChan, State.walked, State.stepOf, hstraps, hrun, hcur]

theorem ownGranted_congr (hstraps : t.straps = s.straps) (htable : t.table = s.table) : t.ownGranted = s.ownGranted := by
  simp only [State.ownGranted, State.ownRecord, State.own, hstraps, htable]

theorem Motion.congr (h : Motion s) (hc : core t = core s) : Motion t := by
  simp only [core, Prod.mk.injEq] at hc
  obtain ⟨hstraps, hmstate, htable, hrun, hcur, hchans⟩ := hc
  refine ⟨⟨?_, ?_, ?_, ?_⟩, ?_, fun x => ?_⟩
  · rw [htable]; exact h.claims
  · rw [htable]; exact h.halt
  · rw [htable, hrun]; exact h.latched
  · rw [hrun, hmstate]; exact h.member
  · rw [hrun, ownGranted_congr hstraps htable]; exact h.mode
  · rw [hchans, drivenChan_congr hstraps hrun hcur]; exact h.drives x

theorem drives_of_still (h : Still s) : Drives s := fun x hx => by
  rw [h x] at hx
  cases hx

/-- With no step DRIVING nothing drives. -/
theorem Drives.still (h : Drives s) (hn : s.drivenChan = none) : Still s := fun x => by
  rw [Bool.eq_false_iff]
  intro hx
  rw [h x hx] at hn
  cases hn

theorem walked_of {r : Run} {c : CurStep} {d : StepDef} (hr : s.runs.run = some r) (hcur : s.steps.cur = some c)
    (hp : r.phase = .running) (hd : s.stepOf r.top = some d) : s.walked = some (r, c, d) := by
  unfold State.walked
  simp only [hr, hcur, hp, if_true, hd]

theorem drivenChan_none_of_run (h : ∀ r, s.runs.run = some r → r.phase ≠ .running) : s.drivenChan = none := by
  unfold State.drivenChan
  split
  · rename_i hw
    obtain ⟨hr, -, hp, -⟩ := walked_spec hw
    exact absurd hp (h _ hr)
  · rfl

theorem drivenChan_none_of_cur {c : CurStep} (hcur : s.steps.cur = some c) (h : c.state = .driving → c.result ≠ none) :
    s.drivenChan = none := by
  unfold State.drivenChan
  split
  · rename_i hw
    obtain ⟨-, hc, -, -⟩ := walked_spec hw
    obtain rfl := Option.some.inj (hcur.symm.trans hc)
    exact if_neg fun hd => h hd.1 hd.2
  · rfl

theorem Motion.still_of_phase (h : Motion s) (hp : ∀ r, s.runs.run = some r → r.phase ≠ .running) : Still s :=
  h.drives.still (drivenChan_none_of_run hp)

theorem Motion.still_of_cur (h : Motion s) {c : CurStep} (hcur : s.steps.cur = some c)
    (hd : c.state = .driving → c.result ≠ none) : Still s :=
  h.drives.still (drivenChan_none_of_cur hcur hd)

/-- The walked step's channel is the one that may drive. -/
theorem Drives.only (h : Drives s) {r : Run} {c : CurStep} {d : StepDef} (hw : s.walked = some (r, c, d)) :
    ∀ x, (s.chans.get x).state.isDriving = true → x = d.chan := by
  intro x hx
  have hd := h x hx
  unfold State.drivenChan at hd
  rw [hw] at hd
  dsimp only at hd
  split at hd
  · exact (Option.some.inj hd).symm
  · cases hd

/-! ## Moves of the engines -/

/-- The engines change run, step and channels: what is left to show. -/
theorem Grounds.engine (h : Grounds s) (houter : outer t = outer s)
    (hrun : ∀ r, t.runs.run = some r → s.runs.run ≠ none ∧ ModeOk r (s.ownGranted = true)) (hdrives : Drives t) :
    Motion t := by
  obtain ⟨hstraps, -, hmember, htable, -⟩ := outer_fields houter
  refine ⟨⟨by rw [htable]; exact h.claims, by rw [htable]; exact h.halt, fun hl => ?_, fun hr => ?_⟩, fun r hr => ?_,
    hdrives⟩
  · rw [htable] at hl ⊢
    obtain ⟨hclaims, hnone⟩ := h.latched hl
    refine ⟨hclaims, Option.eq_none_iff_forall_ne_some.2 fun r hr => ?_⟩
    exact (hrun r hr).1 hnone
  · obtain ⟨r, hr⟩ := Option.ne_none_iff_exists'.1 hr
    rw [hmember]
    exact h.member (hrun r hr).1
  · rw [ownGranted_congr hstraps htable]
    exact (hrun r hr).2

theorem Motion.engine (h : Motion s) (houter : outer t = outer s)
    (hrun : ∀ r, t.runs.run = some r → s.runs.run ≠ none ∧ ModeOk r (s.ownGranted = true)) (hdrives : Drives t) :
    Motion t := h.toGrounds.engine houter hrun hdrives

/-- The run stays as it is. -/
theorem Motion.sameRun (h : Motion s) (houter : outer t = outer s) (hrun : t.runs.run = s.runs.run) (hdrives : Drives t) :
    Motion t :=
  h.engine houter (fun r hr => ⟨by rw [← hrun, hr]; exact nofun, h.mode r (hrun ▸ hr)⟩) hdrives

/-- Phase and mode of the run stay as they are. -/
theorem Motion.samePhase (h : Motion s) (houter : outer t = outer s) {r q : Run} (hr : s.runs.run = some r)
    (hq : t.runs.run = some q) (hphase : q.phase = r.phase) (hmode : q.mode = r.mode) (hdrives : Drives t) : Motion t := by
  refine h.engine houter (fun p hp => ⟨by rw [hr]; exact nofun, ?_⟩) hdrives
  obtain rfl := Option.some.inj (hq.symm.trans hp)
  have := h.mode r hr
  unfold ModeOk at this ⊢
  rwa [hphase, hmode]

@[simp] theorem setTop_phase (r : Run) (e : RunEntry) : (r.setTop e).phase = r.phase := by
  unfold Run.setTop
  split <;> rfl

@[simp] theorem setTop_mode (r : Run) (e : RunEntry) : (r.setTop e).mode = r.mode := by
  unfold Run.setTop
  split <;> rfl

/-- ENDING asks nothing of the claim. -/
theorem Grounds.enterEnding (h : Grounds s) {r : Run} (hr : s.runs.run = some r) (o : RunOutcome) (c : Option Cause) :
    Motion (s.enterEnding o c) := by
  obtain ⟨hrun, -, -, hchans⟩ := enterEnding_spec hr o c
  have hstill : Still (s.enterEnding o c) := still_of_letDown fun x => by rw [hchans]; exact (after_relieve _).1
  refine h.engine (enterEnding_outer s o c) (fun q hq => ⟨by rw [hr]; exact nofun, ?_⟩) (drives_of_still hstill)
  obtain rfl := Option.some.inj (hrun.symm.trans hq)
  exact ⟨by simp, by simp⟩

theorem Motion.enterEnding (h : Motion s) (o : RunOutcome) (c : Option Cause) : Motion (s.enterEnding o c) := by
  cases hr : s.runs.run with
  | none => rwa [show s.enterEnding o c = s by rw [State.enterEnding, hr]]
  | some r => exact h.toGrounds.enterEnding hr o c

theorem Motion.failStep (h : Motion s) {r : Run} {c : CurStep} {d : StepDef} (hw : s.walked = some (r, c, d))
    (c' : CurStep) (x : Cause) (b : Bool) : Motion (s.failStep c' d x b) := by
  refine h.sameRun (failStep_outer ..) (by rw [failStep_runs]) ?_
  exact drives_of_still ((still_command_of_only (h.drives.only hw) (.inr rfl)).of_chans (failStep_chans ..))

/-- Nothing drives, and the run's top entry alone changes. -/
theorem Motion.armTop (h : Motion s) (hs : Still s) {r q : Run} (hr : s.runs.run = some r) (hphase : q.phase = r.phase)
    (hmode : q.mode = r.mode) (n : Nat) (a b : Bool) : Motion ((s.setRun q).arm n a b) := by
  refine h.samePhase (arm_outer _ n a b) hr (by rw [arm_runs]; rfl) hphase hmode ?_
  exact drives_of_still (hs.of_chans (arm_chans ..))

theorem Motion.setRun (h : Motion s) (hs : Still s) {r q : Run} (hr : s.runs.run = some r) (hphase : q.phase = r.phase)
    (hmode : q.mode = r.mode) : Motion (s.setRun q) :=
  h.samePhase (t := s.setRun q) rfl hr rfl hphase hmode (drives_of_still hs)

theorem Motion.completeTop (h : Motion s) (hs : Still s) {r : Run} (hr : s.runs.run = some r) :
    Motion (s.completeTop r) := by
  unfold State.completeTop
  split
  · exact h.enterEnding _ _
  · exact h.armTop hs hr (by simp) (by simp) _ _ _

theorem Motion.failTop (h : Motion s) (hs : Still s) {r : Run} (hr : s.runs.run = some r) (x : Option Cause) :
    Motion (s.failTop r x) := by
  unfold State.failTop
  split
  · exact h.enterEnding _ _
  · dsimp only
    split
    · exact (h.setRun hs hr (by simp) (by simp)).enterEnding _ _
    · refine h.samePhase (failStep_outer ..) hr (by rw [failStep_runs]; rfl) (by simp) (by simp) ?_
      exact drives_of_still (Still.failStep (s := State.setSteps (s.setRun _) _) hs _ _ _ _)

theorem Motion.takeOutcome (h : Motion s) (hs : Still s) {r : Run} (hr : s.runs.run = some r) (o : RunOutcome)
    (x : Option Cause) : Motion (s.takeOutcome r o x) := by
  unfold State.takeOutcome
  split
  · exact h.failTop hs hr x
  · dsimp only
    split
    · refine (h.setRun hs hr ?_ ?_).completeTop hs rfl <;> simp
    · exact h.armTop hs hr (by simp) (by simp) _ _ _

theorem startRecovery_still (hs : Still s) (h : s.startRecovery = some t) : Still t := by
  unfold State.startRecovery at h
  split at h
  · cases h
  · obtain rfl := Option.some.inj h
    exact hs

theorem armingMove_still (hs : Still s) {r : Run} {c : CurStep} {d : StepDef} (h : s.armingMove r c d = some t) :
    Still t := by
  unfold State.armingMove at h
  cases hg : c.gate <;> simp only [hg] at h
  case check =>
    obtain rfl := Option.some.inj h
    split
    · exact hs.relieveOthers d.chan
    · exact hs
  case fence =>
    split at h
    · obtain rfl := Option.some.inj h; exact hs
    · exact startRecovery_still hs h
  case skip =>
    split at h
    · split at h <;> (obtain rfl := Option.some.inj h; exact hs)
    · obtain rfl := Option.some.inj h; exact hs
  case way =>
    split at h
    · obtain rfl := Option.some.inj h
      unfold State.leaveArming
      split
      · exact hs
      · exact hs.enterOpening c d
    · exact startRecovery_still hs h

theorem Motion.makeNest (h : Motion s) {r : Run} {c : CurStep} {d : StepDef} (hw : s.walked = some (r, c, d))
    (m : Manoeuvre) : Motion (s.makeNest r d m) := by
  obtain ⟨hr, -, -, -⟩ := walked_spec hw
  have hstill := still_command_of_only (h.drives.only hw) (cmd := .hold) (.inl rfl)
  refine h.samePhase (makeNest_outer ..) hr (congrArg RunUnit.run (arm_runs ..)) ?_ ?_ (drives_of_still ?_)
  · exact setTop_phase ..
  · exact setTop_mode ..
  · exact hstill.of_chans (arm_chans ..)

theorem Motion.nestTrigger (h : Motion s) {r : Run} {c : CurStep} {d : StepDef} (hw : s.walked = some (r, c, d))
    (m : Manoeuvre) : Motion (s.nestTrigger r c d m) := by
  unfold State.nestTrigger
  split
  · exact h.failStep hw ..
  · split
    · exact h.failStep hw ..
    · split
      · exact h.makeNest hw m
      · exact h.failStep hw ..

/-- HOLD or RELIEVE to the walked channel, and the step goes on somehow. -/
theorem Motion.stopStep (h : Motion s) {r : Run} {c : CurStep} {d : StepDef} (hw : s.walked = some (r, c, d))
    {cmd : ChanCmd} (hcmd : cmd = .hold ∨ cmd = .relieve) (houter : outer t = outer s) (hruns : t.runs = s.runs)
    (hchans : t.chans = (s.command d.chan cmd).chans) : Motion t :=
  h.sameRun houter (by rw [hruns]) (drives_of_still ((still_command_of_only (h.drives.only hw) hcmd).of_chans hchans))

theorem Motion.driveStep (h : Motion s) {r : Run} {c : CurStep} {d : StepDef} (hw : s.walked = some (r, c, d))
    (hc : c.state = .driving) (hn : c.result = none) : Motion (s.driveStep c d) := by
  obtain ⟨hr, -, hp, hd⟩ := walked_spec hw
  refine h.sameRun rfl rfl fun x hx => ?_
  obtain ⟨c', hcur, hstate, hresult⟩ : ∃ c', (s.driveStep c d).steps.cur = some c' ∧ c'.state = c.state ∧
      c'.result = c.result := ⟨_, rfl, rfl, rfl⟩
  have hwalked : (s.driveStep c d).walked = some (r, c', d) := walked_of (s := s.driveStep c d) hr hcur hp hd
  have honly : x = d.chan := by
    by_contra hne
    have : (s.driveStep c d).chans.get x = s.chans.get x := by
      show (s.command d.chan _).chans.get x = _
      rw [command_get, if_neg hne]
    rw [this] at hx
    exact hne (h.drives.only hw x hx)
  unfold State.drivenChan
  rw [hwalked, honly]
  exact if_pos ⟨hstate.trans hc, hresult.trans hn⟩

theorem Motion.drivingMove (h : Motion s) {r : Run} {c : CurStep} {d : StepDef} (hw : s.walked = some (r, c, d))
    (hc : c.state = .driving) (hn : c.result = none) (ht : s.drivingMove r c d = some t) : Motion t := by
  unfold State.drivingMove at ht
  split at ht
  · obtain rfl := Option.some.inj ht
    exact h.stopStep hw (cmd := if d.autoRelieve then .relieve else .hold) (by split <;> simp) rfl rfl rfl
  · split at ht
    · obtain rfl := Option.some.inj ht
      exact h.nestTrigger hw _
    · split at ht
      · obtain rfl := Option.some.inj ht
        exact h.stopStep hw (cmd := .hold) (.inl rfl) rfl rfl rfl
      · split at ht
        · split at ht
          · cases ht
          · obtain rfl := Option.some.inj ht
            exact h.failStep hw ..
        · obtain rfl := Option.some.inj ht
          exact h.driveStep hw hc hn
        · obtain rfl := Option.some.inj ht
          exact h.driveStep hw hc hn
        all_goals
          obtain rfl := Option.some.inj ht
          exact h.failStep hw ..

/-- A move that leaves run and channels while no step drives. -/
theorem Motion.still (h : Motion s) (hs : Still s) (houter : outer t = outer s) (hruns : t.runs = s.runs)
    (hchans : t.chans = s.chans) : Motion t :=
  h.sameRun houter (by rw [hruns]) (drives_of_still (hs.of_chans hchans))

theorem Motion.arm (h : Motion s) (hs : Still s) (n : Nat) (a b : Bool) : Motion (s.arm n a b) :=
  h.still hs (arm_outer ..) (arm_runs ..) (arm_chans ..)

theorem Motion.plainMove (h : Motion s) {r : Run} {c : CurStep} {d : StepDef} (hw : s.walked = some (r, c, d))
    (hn : c.result = none) (ht : s.plainMove r c d = some t) : Motion t := by
  obtain ⟨-, hcur, -, -⟩ := walked_spec hw
  have hstill (hc : c.state ≠ .driving) : Still s := h.still_of_cur hcur fun hd => absurd hd hc
  have back (hc : c.state ≠ .driving) : Motion s.returnToArming := h.arm (hstill hc) ..
  have next (hc : c.state ≠ .driving) (x : StepState) : Motion (s.stepTo c x) := h.still (hstill hc) rfl rfl rfl
  unfold State.plainMove at ht
  cases hc : c.state <;> simp only [hc] at ht
  case arming =>
    exact h.sameRun (armingMove_outer ht) (by rw [armingMove_runs ht])
      (drives_of_still (armingMove_still (hstill (by simp [hc])) ht))
  case driving => exact h.drivingMove hw hc hn ht
  case leading =>
    split at ht
    · cases ht
    · obtain rfl := Option.some.inj ht; exact back (by simp [hc])
  case opening =>
    split at ht
    · split at ht
      · obtain rfl := Option.some.inj ht; exact next (by simp [hc]) _
      · obtain rfl := Option.some.inj ht; exact next (by simp [hc]) _
      all_goals cases ht
    · obtain rfl := Option.some.inj ht; exact back (by simp [hc])
  case priming =>
    split at ht
    · split at ht
      · obtain rfl := Option.some.inj ht; exact next (by simp [hc]) _
      · split at ht
        · cases ht
        · obtain rfl := Option.some.inj ht; exact h.still (hstill (by simp [hc])) rfl rfl rfl
    · obtain rfl := Option.some.inj ht; exact back (by simp [hc])
  case stalled =>
    split at ht
    · obtain rfl := Option.some.inj ht; exact next (by simp [hc]) _
    · cases ht
  case closing =>
    split at ht
    · obtain rfl := Option.some.inj ht; exact h.arm (hstill (by simp [hc])) ..
    · cases ht
  all_goals cases ht

theorem Motion.stepMove (h : Motion s) (ht : stepMove s = some t) : Motion t := by
  unfold Machine.stepMove at ht
  split at ht
  · rename_i r c hr hcur
    split at ht
    · rename_i hp
      split at ht
      · rename_i hres
        obtain rfl := Option.some.inj ht
        exact h.takeOutcome (h.still_of_cur hcur fun _ => by rw [hres]; exact nofun) hr _ _
      · rename_i hres
        split at ht
        · cases ht
        · rename_i d hd
          have hw : s.walked = some (r, c, d) := walked_of hr hcur hp hd
          split at ht
          · obtain rfl := Option.some.inj ht
            exact h.failStep hw ..
          · split at ht
            · obtain rfl := Option.some.inj ht
              exact h.failStep hw ..
            · exact h.plainMove hw hres ht
    · cases ht
  · cases ht

theorem Motion.queue (h : Motion s) (f : TxFrame) : Motion (s.queue f) := by
  refine h.congr ?_
  unfold State.queue
  split <;> rfl

theorem Motion.queueYield (h : Motion s) : Motion s.queueYield :=
  Motion.queue (s := s.withdraw .claim none) (h.congr rfl) _

theorem Motion.queueClaim (h : Motion s) (m : Manoeuvre) : Motion (s.queueClaim m) := by
  unfold State.queueClaim
  split
  · exact h.queue _
  · exact h

theorem Motion.runMove (h : Motion s) (ht : runMove s = some t) : Motion t := by
  unfold Machine.runMove at ht
  split at ht
  · cases ht
  · rename_i r hr
    have hstill (hp : r.phase ≠ .running) : Still s := h.still_of_phase fun q hq => by
      obtain rfl := Option.some.inj (hr.symm.trans hq)
      exact hp
    split at ht
    · rename_i hp
      split at ht
      · obtain rfl := Option.some.inj ht
        have hchans : (s.leaveEnding r).chans = s.chans := by
          unfold State.leaveEnding
          dsimp only
          split
          · rfl
          · exact queueYield_chans s
        have hrun : (s.leaveEnding r).runs.run = none := rfl
        refine h.engine (leaveEnding_outer ..) (fun q hq => ?_) (drives_of_still ((hstill (by simp [hp])).of_chans hchans))
        rw [hrun] at hq
        cases hq
      · split at ht
        · cases ht
        · obtain rfl := Option.some.inj ht
          refine h.engine (t := s.setRun _) rfl (fun q hq => ⟨by rw [hr]; exact nofun, ?_⟩)
            (drives_of_still (hstill (by simp [hp])))
          obtain rfl := Option.some.inj hq
          exact ⟨by simp [hp], by simp [hp]⟩
    · rename_i hp
      split at ht
      · split at ht
        · obtain rfl := Option.some.inj ht
          exact (h.setRun (hstill (by simp [hp])) hr (q := { r with owesYield := false }) rfl rfl).queueYield
        · cases ht
      · split at ht
        · obtain rfl := Option.some.inj ht
          have hdefer : Motion (s.setRun { r with mode := .queued }) := by
            refine h.engine (t := s.setRun _) rfl (fun q hq => ⟨by rw [hr]; exact nofun, ?_⟩)
              (drives_of_still (hstill (by simp [hp])))
            obtain rfl := Option.some.inj hq
            exact ⟨by simp [hp], fun _ => .inl rfl⟩
          exact hdefer.queueClaim _
        · cases ht
    all_goals cases ht

theorem Motion.engineMove (h : Motion s) (ht : engineMove s = some t) : Motion t := by
  unfold Machine.engineMove at ht
  split at ht
  · obtain rfl := Option.some.inj ht
    exact h.stepMove (by assumption)
  · exact h.runMove ht

/-- What notes and passes change is not read. -/
theorem core_congr (houter : outer t = outer s) (hinner : inner t = inner s) : core t = core s := by
  obtain ⟨hstraps, -, hmember, htable, -⟩ := outer_fields houter
  obtain ⟨hruns, hsteps, hchans, -⟩ := inner_fields hinner
  simp only [core, hstraps, hmember, htable, hruns, hsteps, hchans]

/-- What follows an event keeps the laws. -/
theorem Motion.finish (h : Motion s) (old : State) : Motion (finish old s) :=
  finish_keeps (fun _ _ ht h => h.engineMove ht)
    (fun o t h => h.congr (core_congr (noteChange_outer o t) (noteChange_inner o t)))
    (fun f hf t h => h.congr (core_congr (passes_outer f hf t) (passes_inner f hf t))) old s h

end

end Sys2Proof.Motions
end

section
/-! Every step keeps the laws behind every motion (O57): requests and verdicts, the claim table, frames, the body, lines
and timers. -/

namespace Sys2Proof.Motions

open Sys2Proof.Machine Sys2Proof.Laws Sys2Proof.Engines Sys2Proof.ClaimTable Sys2Proof.ClaimLaws Sys2Proof.BlockLaws

section

variable {s t : State}

/-! ## The own claim -/

/-- With one record per claimant, the node's claim is GRANTED exactly if such a record stands in the list. -/
theorem ownGranted_iff (h : claimLaws s.table.claims = true) :
    s.ownGranted = true ↔ ∃ r ∈ s.table.claims, r.claimant = s.own ∧ r.state = .granted := by
  obtain ⟨hone, -, -⟩ := (claimLaws_iff _).1 h
  unfold State.ownGranted State.ownRecord
  constructor
  · intro hg
    split at hg
    · rename_i x hx
      exact ⟨x, List.mem_of_find?_eq_some hx, by simpa using List.find?_some hx, by simpa using hg⟩
    · cases hg
  · rintro ⟨r, hr, hn, hg⟩
    cases hx : s.table.claims.find? fun r => r.claimant == s.own with
    | none => exact absurd hn (by simpa using List.find?_eq_none.1 hx r hr)
    | some x =>
      have hxn : x.claimant = s.own := by simpa using List.find?_some hx
      obtain rfl := List.inj_on_of_nodup_map hone (List.mem_of_find?_eq_some hx) hr (hxn.trans hn.symm)
      simp [hg]

/-- The own GRANTED record stays where the GRANTED records of the node stay. -/
theorem ownGranted_mono (hs : claimLaws s.table.claims = true) (ht : claimLaws t.table.claims = true)
    (hown : t.own = s.own)
    (hmem : ∀ r ∈ s.table.claims, r.claimant = s.own → r.state = .granted → r ∈ t.table.claims)
    (hg : s.ownGranted = true) : t.ownGranted = true := by
  obtain ⟨r, hr, hn, hgr⟩ := (ownGranted_iff hs).1 hg
  exact (ownGranted_iff ht).2 ⟨r, hmem r hr hn hgr, by rw [hown, hn], hgr⟩

theorem ModeOk.imp {r : Run} {p q : Prop} (h : ModeOk r p) (hpq : p → q) : ModeOk r q :=
  ⟨fun hr => ⟨(h.1 hr).1, hpq (h.1 hr).2⟩, h.2⟩

/-! ## No run -/

/-- A node without a run, and with nothing driving. -/
theorem motion_of_no_run (hrun : s.runs.run = none) (hclaims : claimLaws s.table.claims = true)
    (hhalt : s.table.halt.laws = true) (hlatched : s.table.halt.latch ≠ none → s.table.claims = []) (hstill : Still s) :
    Motion s :=
  ⟨⟨hclaims, hhalt, fun hl => ⟨hlatched hl, hrun⟩, fun h => absurd hrun h⟩, fun r hr => (by rw [hrun] at hr; cases hr),
    drives_of_still hstill⟩

theorem Motion.no_run_of_not_member (h : Motion s) (hm : s.member.mstate ≠ .member) : s.runs.run = none := by
  by_contra hr
  exact hm (h.member hr)

theorem Motion.still_of_no_run (h : Motion s) (hr : s.runs.run = none) : Still s :=
  h.still_of_phase fun r hr' => by rw [hr] at hr'; cases hr'

/-- A node without a run may change its membership state. -/
theorem Motion.of_no_run (h : Motion s) (hr : s.runs.run = none) (hruns : t.runs = s.runs) (htable : t.table = s.table)
    (hchans : t.chans = s.chans) : Motion t :=
  motion_of_no_run (by rw [hruns, hr]) (by rw [htable]; exact h.claims) (by rw [htable]; exact h.halt)
    (fun hl => by rw [htable] at hl ⊢; exact (h.latched hl).1) ((h.still_of_no_run hr).of_chans hchans)

theorem off_laws : HaltState.off.laws = true := rfl

theorem motion_leave (s : State) (d : Departure) (c : Cause) : Motion (s.leave d c) := by
  obtain ⟨-, -, hdown⟩ := endStack_spec s .isolated
  exact motion_of_no_run (by rw [(leave_runs s d c).1]) rfl off_laws (fun _ => rfl) (still_of_letDown hdown)

/-! ## Requests -/

/-- A run starts on a node that may run. -/
theorem Motion.runOn (h : Motion s) (houter : outer t = outer s) (hm : s.member.mstate = .member)
    (hl : s.table.halt.latch = none) (hrun : ∀ r, t.runs.run = some r → ModeOk r (s.ownGranted = true))
    (hdrives : Drives t) : Motion t := by
  obtain ⟨hstraps, -, hmember, htable, -⟩ := outer_fields houter
  refine ⟨⟨by rw [htable]; exact h.claims, by rw [htable]; exact h.halt, fun hl' => ?_, fun _ => by rw [hmember, hm]⟩,
    fun r hr => ?_, hdrives⟩
  · rw [htable] at hl'
    exact absurd hl hl'
  · rw [ownGranted_congr hstraps htable]
    exact hrun r hr

theorem startRun_run (s : State) (m : Manoeuvre) (f : Option LiftFn) : ∃ r, (s.startRun m f).runs.run = some r ∧
    r.phase = .claiming ∧ (r.mode = .queued ∨ r.mode = .deferred) := by
  unfold State.startRun
  dsimp only
  split
  · exact ⟨_, rfl, rfl, .inr rfl⟩
  · exact ⟨_, by rw [queueClaim_runs], rfl, .inl rfl⟩

theorem startRun_chans (s : State) (m : Manoeuvre) (f : Option LiftFn) : (s.startRun m f).chans = s.chans := by
  unfold State.startRun
  dsimp only
  split
  · rfl
  · exact queueClaim_chans ..

theorem Motion.requestIdle (h : Motion s) (hr : s.runs.run = none) (m : Manoeuvre) (f : Option LiftFn) :
    Motion (s.requestIdle m f) := by
  unfold State.requestIdle
  split
  · exact h.congr rfl
  · rename_i hm
    split
    · exact h.congr rfl
    · rename_i hl
      have hlatch : s.table.halt.latch = none := by
        by_contra hn
        exact hl ((latched_iff s).2 hn)
      refine h.runOn (startRun_outer ..) (by simpa using hm) hlatch (fun q hq => ?_)
        (drives_of_still ((h.still_of_no_run hr).of_chans (startRun_chans ..)))
      obtain ⟨r, hrun, hphase, hmode⟩ := startRun_run s m f
      obtain rfl := Option.some.inj (hrun.symm.trans hq)
      exact ⟨by simp [hphase], fun _ => hmode⟩

/-- A switch, of a run that is not ENDING (R118). -/
theorem Motion.switchTo (h : Motion s) {r : Run} (hr : s.runs.run = some r) (hp : r.phase ≠ .ending) (m : Manoeuvre)
    (f : Option LiftFn) : Motion (s.switchTo m f) := by
  have hmode := h.mode r hr
  have hheld : r.mode = .held → s.ownGranted = true := fun hm => by
    refine (hmode.1 ?_).2
    cases hph : r.phase with
    | running | paused => simp
    | ending => exact absurd hph hp
    | claiming => rcases hmode.2 hph with h' | h' <;> rw [h'] at hm <;> cases hm
  have hwaits : r.mode ≠ .held → r.mode = .queued ∨ r.mode = .deferred := fun hm => by
    refine hmode.2 ?_
    cases hph : r.phase with
    | running => exact absurd (hmode.1 (.inl hph)).1 hm
    | paused => exact absurd (hmode.1 (.inr hph)).1 hm
    | ending => exact absurd hph hp
    | claiming => rfl
  refine h.engine (switchTo_outer s m f) (fun q hq => ⟨by rw [hr]; exact nofun, ?_⟩) ?_
  · unfold State.switchTo at hq
    rw [hr] at hq
    dsimp only at hq
    split at hq
    · split at hq
      · rename_i hm
        rw [arm_runs, relieveUnnamed_runs] at hq
        obtain rfl := Option.some.inj hq
        exact ⟨fun _ => ⟨hm, hheld hm⟩, by simp⟩
      · rename_i hm
        obtain rfl := Option.some.inj hq
        exact ⟨by simp, fun _ => hwaits hm⟩
    · obtain rfl := Option.some.inj hq
      exact ⟨by simp, fun _ => .inr rfl⟩
  · refine drives_of_still ?_
    unfold State.switchTo
    rw [hr]
    dsimp only
    split
    · split
      · refine Still.of_chans ?_ (arm_chans ..)
        refine Still.relieveUnnamed ?_ m
        exact holdDriving_still _
      · exact holdDriving_still _
    · exact relieveAll_still _

theorem Motion.touchRequest (h : Motion s) (m : Manoeuvre) : Motion (s.touchRequest m) := by
  unfold State.touchRequest
  split
  · rename_i hr
    exact h.requestIdle hr m none
  · rename_i r hr
    split
    · exact h.congr rfl
    · rename_i hp
      split
      · exact h.enterEnding _ _
      · exact h.switchTo hr (by simp [hp]) m none
    · rename_i hp
      split
      · exact h.enterEnding _ _
      · exact h.switchTo hr (by simp [hp]) m none
    · exact h

theorem Motion.resumeRun (h : Motion s) {r : Run} (hr : s.runs.run = some r) (hp : r.phase = .paused) :
    Motion (s.resumeRun r) := by
  unfold State.resumeRun
  split
  · exact h
  · have hstill : Still s := h.still_of_phase fun q hq => by
      obtain rfl := Option.some.inj (hr.symm.trans hq)
      simp [hp]
    refine h.engine ((arm_outer ..).trans rfl) (fun q hq => ⟨by rw [hr]; exact nofun, ?_⟩)
      (drives_of_still (hstill.of_chans (arm_chans ..)))
    rw [arm_runs] at hq
    obtain rfl := Option.some.inj hq
    exact ⟨fun _ => (h.mode r hr).1 (.inr hp), by simp⟩

theorem Motion.heldBegin (h : Motion s) (f : LiftFn) : Motion (s.heldBegin f) := by
  unfold State.heldBegin
  split
  · rename_i hr
    exact h.requestIdle hr _ _
  · rename_i r hr
    split
    · exact h.congr rfl
    · rename_i hp
      split
      · exact h.resumeRun hr hp
      · exact h.switchTo hr (by simp [hp]) _ _
    all_goals exact h

theorem Motion.pauseRun (h : Motion s) {r : Run} (hr : s.runs.run = some r) (hp : r.phase = .running) :
    Motion (s.pauseRun r) := by
  unfold State.pauseRun
  split
  · exact h
  · refine h.engine rfl (fun q hq => ⟨by rw [hr]; exact nofun, ?_⟩) (drives_of_still (holdDriving_still s))
    obtain rfl := Option.some.inj hq
    exact ⟨fun _ => (h.mode r hr).1 (.inl hp), by simp⟩

theorem Motion.heldEnd (h : Motion s) (f : LiftFn) : Motion (s.heldEnd f) := by
  unfold State.heldEnd
  split
  · exact h
  · rename_i r hr
    split
    · split
      · exact h.enterEnding _ _
      · rename_i hp
        exact h.pauseRun hr hp
      all_goals exact h
    · exact h

/-! ## Verdicts -/

theorem Motion.yieldStray (h : Motion s) : Motion s.yieldStray := by
  unfold State.yieldStray
  split
  · exact h
  · exact h.queueYield

theorem Motion.grantRun (h : Motion s) {r : Run} (hr : s.runs.run = some r) (hp : r.phase = .claiming)
    (hg : s.ownGranted = true) : Motion (s.grantRun r) := by
  have hstill : Still s := h.still_of_phase fun q hq => by
    obtain rfl := Option.some.inj (hr.symm.trans hq)
    simp [hp]
  refine h.engine (grantRun_outer s r) (fun q hq => ⟨by rw [hr]; exact nofun, ?_⟩)
    (drives_of_still (hstill.of_chans (arm_chans ..)))
  have hrun : (s.grantRun r).runs.run = some { r with
      mode := .held, phase := .running, runTag := some s.log.tag, base := { r.base with idx := 1 } } :=
    congrArg RunUnit.run (arm_runs ..)
  obtain rfl := Option.some.inj (hrun.symm.trans hq)
  exact ⟨fun _ => ⟨rfl, hg⟩, by simp⟩

/-- A verdict is taken: GRANTED only with the own claim GRANTED. -/
theorem Motion.takeVerdict (h : Motion s) {v : Verdict} (hv : v = .granted → s.ownGranted = true) :
    Motion (s.takeVerdict v) := by
  unfold State.takeVerdict
  split
  · split
    · exact h.yieldStray
    · exact h.yieldStray
    all_goals exact h
  · rename_i r hr
    split
    · rename_i hp
      split
      · exact h.grantRun hr hp (hv rfl)
      · exact h.yieldStray
    · split
      · exact h
      · exact h.yieldStray
    · split
      · exact h.enterEnding _ _
      · exact h
    · exact h
    · exact h
    · exact h.enterEnding _ _
    · exact h.enterEnding _ _
    · exact h.enterEnding _ _
    · exact h.enterEnding _ _
    all_goals exact h

/-- The own record is gone, and the verdict is still to come: a run that walks goes without. -/
structure Bereft (s : State) : Prop extends Grounds s where
  mode : ∀ r, s.runs.run = some r → r.phase = .claiming → r.mode = .queued ∨ r.mode = .deferred
  drives : Drives s

theorem Bereft.motion (h : Bereft s) (hp : ∀ r, s.runs.run = some r → r.phase ≠ .running ∧ r.phase ≠ .paused) :
    Motion s :=
  ⟨h.toGrounds, fun r hr => ⟨fun hw => absurd hw (by simp [hp r hr]), h.mode r hr⟩, h.drives⟩

/-- REMOVED ends a run that walks, and no other (R107). -/
theorem takeVerdict_removed {r : Run} (hr : s.runs.run = some r) {v : Verdict}
    (hv : v = .removedByYield ∨ v = .removedByJoin) :
    s.takeVerdict v =
      if r.phase = .running ∨ r.phase = .paused then s.enterEnding .failed (some .claimLost) else s := by
  unfold State.takeVerdict
  rw [hr]
  rcases hv with rfl | rfl <;> cases hp : r.phase <;> simp [hp]

theorem takeVerdict_removed_idle (hr : s.runs.run = none) {v : Verdict} (hv : v = .removedByYield ∨ v = .removedByJoin) :
    s.takeVerdict v = s := by
  unfold State.takeVerdict
  rw [hr]
  rcases hv with rfl | rfl <;> rfl

theorem Bereft.takeVerdict (h : Bereft s) {v : Verdict} (hv : v = .removedByYield ∨ v = .removedByJoin) :
    Motion (s.takeVerdict v) := by
  cases hr : s.runs.run with
  | none =>
    rw [takeVerdict_removed_idle hr hv]
    exact h.motion fun r hr' => by rw [hr] at hr'; cases hr'
  | some r =>
    rw [takeVerdict_removed hr hv]
    split
    · exact h.toGrounds.enterEnding hr _ _
    · rename_i hp
      refine h.motion fun q hq => ?_
      obtain rfl := Option.some.inj (hr.symm.trans hq)
      exact not_or.1 hp

/-! ## Records -/

theorem Motion.removeRecord_grounds (h : Motion s) (n : Node) : Grounds (s.removeRecord n) := by
  unfold State.removeRecord
  split
  · rename_i hc
    refine ⟨claimLaws_evalGrants (claimLaws_removeClaim h.claims n), h.halt, fun hl => ?_, h.member⟩
    obtain ⟨hempty, -⟩ := h.latched hl
    rw [hempty] at hc
    cases hc
  · exact h.toGrounds

theorem removeRecord_frame (s : State) (n : Node) : (s.removeRecord n).runs = s.runs ∧ (s.removeRecord n).straps = s.straps ∧
    ((Drives s) → Drives (s.removeRecord n)) := by
  rw [removeRecord_eq]
  exact ⟨rfl, rfl, id⟩

theorem Motion.removeRecord_bereft (h : Motion s) (n : Node) : Bereft (s.removeRecord n) := by
  obtain ⟨hruns, -, hdrives⟩ := removeRecord_frame s n
  exact ⟨h.removeRecord_grounds n, by rw [hruns]; exact fun r hr => (h.mode r hr).2, hdrives h.drives⟩

/-- Another node's record goes: the own one stays GRANTED. -/
theorem Motion.removeRecord_peer (h : Motion s) {n : Node} (hn : n ≠ s.own) : Motion (s.removeRecord n) := by
  obtain ⟨hruns, hstraps, hdrives⟩ := removeRecord_frame s n
  have hg := h.removeRecord_grounds n
  refine ⟨hg, ?_, hdrives h.drives⟩
  rw [hruns]
  refine fun r hr => (h.mode r hr).imp (ownGranted_mono h.claims hg.claims (by rw [State.own, hstraps]; rfl) ?_)
  intro q hq hown hgr
  rw [removeRecord_table]
  dsimp only
  split
  · exact mem_evalGrants (List.mem_filter.2 ⟨hq, by simpa [hown] using hn.symm⟩) hgr
  · exact hq

theorem Motion.removeFor (h : Motion s) (n : Node) {v : Verdict} (hv : v = .removedByYield ∨ v = .removedByJoin) :
    Motion (s.removeFor n v) := by
  unfold State.removeFor
  dsimp only
  split
  · rename_i hn
    split
    · exact (h.removeRecord_bereft n).takeVerdict hv
    · rename_i hc
      rwa [State.removeRecord, if_neg hc]
  · rename_i hn
    split
    · rename_i hg
      refine (h.removeRecord_peer hn).takeVerdict fun _ => ?_
      simp only [Bool.and_eq_true] at hg
      exact hg.2
    · exact h.removeRecord_peer hn

theorem Motion.admitted (h : Motion s) {n : Node} {m : ClaimMsg} (ha : s.admission n m = none) :
    Motion (s.setClaims (s.admitted n m)) := by
  rw [admission_eq] at ha
  split at ha
  · cases ha
  · rename_i hl
    split at ha
    · cases ha
    · split at ha
      · cases ha
      · rename_i hnone
        have hlaws : claimLaws (s.admitted n m) = true := by
          refine claimLaws_evalGrants (claimLaws_append_waiting h.claims rfl ?_)
          rw [Bool.eq_false_iff]
          exact fun hc => hnone ((hasClaim_iff _ _).1 hc)
        refine ⟨⟨hlaws, h.halt, fun hl' => absurd hl' hl, h.member⟩, fun r hr => (h.mode r hr).imp ?_, h.drives⟩
        refine ownGranted_mono h.claims hlaws rfl fun q hq _ hg => ?_
        exact mem_evalGrants (List.mem_append_left _ hq) hg

theorem Motion.claimFrom (h : Motion s) (n : Node) (m : ClaimMsg) : Motion (s.claimFrom n m) := by
  unfold State.claimFrom
  split
  · split
    · exact h.takeVerdict nofun
    · exact h
  · rename_i ha
    dsimp only
    split
    · refine (h.admitted ha).takeVerdict fun hv => ?_
      split at hv
      · assumption
      · cases hv
    · exact h.admitted ha

end

end Sys2Proof.Motions
end

section
/-! Every step keeps the laws behind every motion (O57): frames, the body, lines, timers and resets. -/

namespace Sys2Proof.Motions

open Sys2Proof.Machine Sys2Proof.Laws Sys2Proof.Engines Sys2Proof.ClaimTable Sys2Proof.ClaimLaws Sys2Proof.Kept
  Sys2Proof.BlockLaws

section

variable {s t : State}

/-! ## Halt and clear -/

theorem raised_laws {h : HaltState} (hl : h.laws = true) (n : Node) : (h.raised n).laws = true := by
  unfold HaltState.raised
  unfold HaltState.laws at hl
  split
  · rfl
  · rename_i hs
    rw [hs] at hl
    simp only [Bool.and_eq_true, decide_eq_true_eq] at hl
    simp only [HaltState.laws, Bool.and_eq_true, decide_eq_true_eq]
    omega

theorem Motion.haltOn (h : Motion s) (n : Node) (src : StopSource) : Motion (s.halt n src) := by
  obtain ⟨hrun, -, hdown⟩ := endStack_spec { s with table := { claims := [], halt := s.table.halt.raised n } } .halted
  obtain ⟨-, -, -, htable, -⟩ :=
    outer_fields (endStack_outer { s with table := { claims := [], halt := s.table.halt.raised n } } .halted)
  have htable : (s.halt n src).table = { claims := [], halt := s.table.halt.raised n } := htable
  refine motion_of_no_run hrun ?_ ?_ ?_ (still_of_letDown hdown)
  · rw [htable]; rfl
  · rw [htable]; exact raised_laws h.halt n
  · rw [htable]; exact fun _ => rfl

/-- The halt is off, the rest of what the laws read is as before. -/
theorem Motion.haltOff (h : Motion s) : Motion { s with table := { s.table with halt := HaltState.off } } :=
  ⟨⟨h.claims, off_laws, fun hl => absurd rfl hl, h.member⟩, h.mode, h.drives⟩

theorem Motion.clearHalt (h : Motion s) : Motion s.clearHalt := by
  unfold State.clearHalt
  extract_lets _ s1
  have h1 : Motion s1 := h.haltOff
  split
  · exact h1.queue _
  · exact h1

/-! ## Roster and body -/

theorem Motion.dropPending (h : Motion s) (k : Kind) (x : Option Node) : Motion (s.dropPending k x) := by
  rw [dropPending_eq]
  exact h.congr rfl

theorem Motion.evict (h : Motion s) (n : Node) : Motion (s.evict n) := by
  unfold State.evict
  split
  · exact motion_leave ..
  · have hgone : Motion (((s.setEntry n ((s.entry n).leave .absent (s.entry n).role)).setOwed n false).dropPending .evict
        (some n)) := (h.congr (t := (s.setEntry n _).setOwed n false) rfl).dropPending _ _
    split
    · exact hgone.removeFor n (.inl rfl)
    · exact hgone.removeFor n (.inl rfl)
    all_goals exact h

theorem Motion.snapOther (h : Motion s) (n : Node) : Motion (s.snapOther n) := by
  unfold State.snapOther
  dsimp only
  split
  · exact h.congr rfl
  · exact h.congr rfl

theorem Motion.enterMember (h : Motion s) (hr : s.runs.run = none) : Motion s.enterMember := by
  unfold State.enterMember
  extract_lets _ _ s1 _ s2
  have h1 : Motion s1 := h.of_no_run hr rfl rfl rfl
  have h2 : Motion s2 := by
    refine Motion.queue ?_ .posture
    exact h1.congr rfl
  split
  · exact h2.queue _
  · exact h2

theorem Motion.resync (h : Motion s) : Motion s.resync ∧ s.resync.runs.run = none := by
  unfold State.resync
  split
  · obtain ⟨hrun, -, hdown⟩ := endStack_spec s .resync
    have hend : Motion (s.endStack .resync) := by
      obtain ⟨-, -, -, htable, -⟩ := outer_fields (endStack_outer s .resync)
      refine motion_of_no_run hrun ?_ ?_ ?_ (still_of_letDown hdown)
      · rw [htable]; exact h.claims
      · rw [htable]; exact h.halt
      · rw [htable]; exact fun hl => (h.latched hl).1
    exact ⟨hend.queueYield, by rw [queueYield_runs, hrun]⟩
  · rename_i hm
    exact ⟨h, h.no_run_of_not_member fun hm' => hm (beq_iff_eq.2 hm')⟩

/-- What a SNAPSHOT carries keeps the laws of claim list and halt state (R63, R150). -/
theorem readSnapPayload_lawful {p : List Byte} {m : SnapMsg} (h : readSnapPayload p = some m) :
    claimLaws m.claims = true ∧ m.halt.laws = true ∧ (m.halt.latch ≠ none → m.claims = []) := by
  unfold readSnapPayload at h
  split at h
  · split at h
    · rename_i hhalt _ _
      dsimp only at h
      split at h
      · rename_i hm
        obtain rfl := Option.some.inj h
        obtain ⟨-, -, hlawful⟩ := hm
        simp only [SnapMsg.lawful, Bool.and_eq_true, Bool.or_eq_true, List.isEmpty_iff, Option.isNone_iff_eq_none]
          at hlawful
        obtain ⟨⟨⟨⟨hone, -⟩, hapart⟩, hsum⟩, hempty⟩ := hlawful
        refine ⟨by simp only [claimLaws, hone, hapart, hsum, Bool.and_self], ((readHalt_eq_some _ _ _).1 hhalt).1, ?_⟩
        exact fun hl => hempty.resolve_right hl
      · cases h
    · cases h
  · cases h

theorem Motion.adopt (h : Motion s) (hr : s.runs.run = none) {p : List Byte} {m : SnapMsg}
    (hm : readSnapPayload p = some m) : Motion (s.adopt m) := by
  obtain ⟨hclaims, hhalt, hempty⟩ := readSnapPayload_lawful hm
  refine motion_of_no_run hr (claimLaws_evalGrants hclaims) hhalt (fun hl => ?_) (h.still_of_no_run hr)
  show evalGrants m.claims = []
  rw [hempty hl]
  rfl

theorem Motion.snapOwn (h : Motion s) {p : List Byte} {m : SnapMsg} (hm : readSnapPayload p = some m) :
    Motion (s.snapOwn m) := by
  obtain ⟨hsync, hrun⟩ := h.resync
  unfold State.snapOwn
  split
  · exact (hsync.adopt hrun hm).enterMember hrun
  · exact motion_leave ..
  all_goals exact h

theorem Motion.found (h : Motion s) (hr : s.runs.run = none) (n : Node) (m : JoinMsg) : Motion (s.found n m) :=
  motion_of_no_run hr claimLaws_nil off_laws (fun _ => rfl) (h.still_of_no_run hr)

theorem Motion.joinProvisional (h : Motion s) (hr : s.runs.run = none) (n : Node) (m : JoinMsg) :
    Motion (s.joinProvisional n m) := by
  unfold State.joinProvisional
  split
  · split
    · exact (h.found hr n m).enterMember hr
    · exact h.found hr n m
  · exact h.congr rfl

theorem Motion.joinMember (h : Motion s) (n : Node) (m : JoinMsg) : Motion (s.joinMember n m) := by
  unfold State.joinMember
  dsimp only
  refine Motion.congr (s := match (s.entry n).state with
    | .member | .joining => s.removeFor n .removedByJoin
    | .unknown | .absent | .barred => s) ?_ rfl
  split
  · exact h.removeFor n (.inr rfl)
  · exact h.removeFor n (.inr rfl)
  all_goals exact h

theorem Motion.byPosture (h : Motion s) (n : Node) (m : PostureMsg) (noted : BitVec 8) :
    Motion (s.byPosture n m noted) := by
  unfold State.byPosture
  dsimp only
  split
  · exact h.congr rfl
  · refine Motion.queue ?_ _
    exact h.congr rfl
  all_goals exact h.congr rfl

theorem Motion.checkDiverged (h : Motion s) : Motion s.checkDiverged := by
  unfold State.checkDiverged
  split
  · exact motion_leave ..
  · exact h

/-! ## Frames -/

/-- The processing of a frame keeps the laws. -/
def KeepsMotion (f : RxRec → State → State) : Prop := ∀ r s, Motion s → Motion (f r s)

theorem KeepsMotion.process {f : RxRec → State → State} (hf : KeepsMotion f) (h : Motion s) (k : Kind) :
    Motion (s.process k f) := by
  unfold State.process
  split
  · exact h
  · split
    · exact hf _ _ (h.congr rfl)
    · exact h

theorem takeHalt_motion : KeepsMotion State.takeHalt := fun r s h => by
  unfold State.takeHalt
  split
  · exact h
  · split
    · exact h.haltOn _ _
    · exact h

theorem takeClear_motion : KeepsMotion State.takeClear := fun r s h => by
  unfold State.takeClear
  split
  · exact h
  · split
    · exact h.clearHalt
    · exact h

theorem takeEvict_motion : KeepsMotion State.takeEvict := fun r s h => by
  unfold State.takeEvict
  split
  · exact h
  · split
    · exact h.evict _
    · exact h

theorem takeYield_motion : KeepsMotion State.takeYield := fun r s h => by
  unfold State.takeYield
  split
  · exact h
  · split
    · exact h.removeFor _ (.inl rfl)
    · exact h

theorem takeClaim_motion : KeepsMotion State.takeClaim := fun r s h => by
  unfold State.takeClaim
  split
  · exact h
  · split
    · exact h.claimFrom _ _
    · exact h

theorem takeSnapshot_motion : KeepsMotion State.takeSnapshot := fun r s h => by
  unfold State.takeSnapshot
  split
  · exact h
  · rename_i hm
    split
    · split
      · exact h.snapOwn hm
      · exact h
    · split
      · exact h.snapOther _
      · exact h

theorem not_member_of {s : State} (h : ¬s.isMember = true) : s.member.mstate ≠ .member := fun hm => h (beq_iff_eq.2 hm)

theorem takeJoin_motion : KeepsMotion State.takeJoin := fun r s h => by
  unfold State.takeJoin
  split
  · exact h
  · split
    · exact h
    · split
      · exact motion_leave ..
      · split
        · exact h.joinMember _ _
        · rename_i hm
          exact h.joinProvisional (h.no_run_of_not_member (not_member_of hm)) _ _

theorem takePosture_motion : KeepsMotion State.takePosture := fun r s h => by
  unfold State.takePosture
  split
  · exact h
  · split
    · exact h
    · split
      · split
        · exact motion_leave ..
        · split
          · exact h.checkDiverged
          · exact h
      · split
        · exact (h.byPosture _ _ _).checkDiverged
        · exact h.congr rfl

theorem takeProbe_motion : KeepsMotion State.takeProbe := fun r s h => by
  unfold State.takeProbe
  split
  · exact h
  · split
    · exact h.queue _
    · exact h

theorem takeReply_motion : KeepsMotion State.takeReply := fun r s h => by
  unfold State.takeReply
  split
  · exact h
  · split
    · exact h.congr rfl
    · exact h

/-! ## Link -/

theorem Motion.attemptCounted (h : Motion s) (k : Kind) (x : Option Node) (l : LineUse) :
    Motion (s.attemptCounted k x l) := by
  unfold State.attemptCounted
  split
  · exact motion_leave ..
  · exact h.congr rfl

theorem Motion.take (h : Motion s) (k : Kind) (n : Node) (p : List Byte) (own : Bool) : Motion (s.take k n p own) := by
  unfold State.take
  dsimp only
  split
  · exact h.congr rfl
  · exact h.congr rfl

theorem Motion.ownTaken (h : Motion s) (k : Kind) : Motion (s.ownTaken k) := by
  unfold State.ownTaken
  split
  · split
    · exact h.congr rfl
    · exact h
  · split
    · exact h.congr rfl
    · exact h
  · exact h

theorem Motion.slot (h : Motion s) (f : LineFrame) (vetoed : Bool) : Motion (s.slot f vetoed) := by
  unfold State.slot
  split
  · unfold State.ownSlot
    split
    · exact h.attemptCounted _ _ _
    · refine Motion.ownTaken ?_ _
      refine Motion.take ?_ _ _ _ _
      exact h.congr rfl
  · exact h.congr rfl
  · unfold State.receiveSlot
    split
    · exact h
    · split
      · unfold State.vetoFrame
        split
        · exact motion_leave ..
        · exact h.congr rfl
      · split
        · exact h
        · split
          · exact h.take _ _ _ _
          · exact h

/-! ## Channels -/

/-- Channels change, and none begins to drive. -/
theorem Motion.chans (h : Motion s) {u : ChanUnit}
    (hu : ∀ x, (u.get x).state.isDriving = true → (s.chans.get x).state.isDriving = true) :
    Motion { s with chans := u } :=
  ⟨⟨h.claims, h.halt, h.latched, h.member⟩, h.mode, fun x hx => h.drives x (hu x hx)⟩

theorem Motion.setChan (h : Motion s) {c : Chan} {y : ChanRec}
    (hy : y.state.isDriving = true → (s.chans.get c).state.isDriving = true) :
    Motion { s with chans := s.chans.set c y } :=
  h.chans fun x hx => by
    rw [set_get] at hx
    split at hx
    · rename_i hxc
      rw [hxc]
      exact hy hx
    · exact hx

theorem settled_driving (c : ChanRec) (h : c.settled.state.isDriving = true) : c.state.isDriving = true := by
  obtain ⟨st, held, settle⟩ := c
  revert h
  cases settle <;> cases st <;> cases held <;> simp [ChanRec.settled, ChanRec.enter, ChanState.isDriving]

theorem Motion.relieveAll (h : Motion s) : Motion s.relieveAll :=
  h.sameRun (relieveAll_outer s) rfl (drives_of_still (relieveAll_still s))

/-! ## Lines -/

theorem Motion.stopPress (h : Motion s) (src : StopSource) : Motion (s.stopPress src) := by
  unfold State.stopPress
  dsimp only
  split
  · exact (h.relieveAll.queue _).congr rfl
  · exact h.relieveAll

theorem acked_driving (c : ChanRec) (h : c.acked.state.isDriving = true) : c.state.isDriving = true := by
  unfold ChanRec.acked at h
  split at h
  · cases h
  · exact h

theorem Motion.ackPress (h : Motion s) : Motion s.ackPress := by
  unfold State.ackPress
  extract_lets _ s1
  have h1 : Motion s1 := by
    refine (h.chans (u := s1.chans) fun x hx => ?_).congr rfl
    have hs1 : s1.chans = if s.runs.run.isNone then s.chans.each ChanRec.acked else s.chans := rfl
    rw [hs1] at hx
    split at hx
    · rw [each_get] at hx
      exact acked_driving _ hx
    · exact hx
  split
  · exact h1.queue _
  · exact h1

theorem Motion.setHeld (h : Motion s) (d : HeldDetector) : Motion (s.setHeld d) := h.congr rfl

theorem Motion.pendantOn (h : Motion s) (i : Fin 16) : Motion (s.pendantOn i) := by
  unfold State.pendantOn
  split
  · split
    · exact (h.setHeld _).heldBegin _
    · exact h
  · split
    · exact h
    · exact (h.setHeld _).heldEnd _
  · exact h

theorem Motion.pendantOff (h : Motion s) (i : Fin 16) : Motion (s.pendantOff i) := by
  unfold State.pendantOff
  split
  · split
    · exact h.setHeld _
    · exact h
  · split
    · exact (h.setHeld _).heldEnd _
    · exact h
  · split
    · exact h.setHeld _
    · exact h

theorem Motion.becameActive (h : Motion s) (i : Fin 16) : Motion (s.becameActive i) := by
  unfold State.becameActive
  split
  · exact h.stopPress _
  · split
    · exact h.ackPress
    · split
      · split
        · exact h.pendantOn i
        · split
          · exact h.congr rfl
          · split
            · exact h.congr rfl
            · exact h
      · unfold State.panelPress
        split
        · exact h.congr rfl
        · exact h
      all_goals exact h

theorem Motion.becameInactive (h : Motion s) (i : Fin 16) : Motion (s.becameInactive i) := by
  unfold State.becameInactive
  split
  · split
    · exact h.pendantOff i
    · exact h
  all_goals exact h

theorem Motion.filterExpiry (h : Motion s) (i : Fin 16) : Motion (s.filterExpiry i) := by
  unfold State.filterExpiry
  extract_lets x level s1
  have h1 : Motion s1 := h.congr rfl
  split
  · exact h1.becameActive i
  · exact h1.becameInactive i

theorem Motion.takeLatches (h : Motion s) : Motion s.takeLatches := by
  unfold State.takeLatches
  extract_lets _ s1
  have h1 : Motion s1 := h.congr rfl
  split
  · exact h1.congr rfl
  · exact h1.touchRequest _
  · exact h1.touchRequest _
  · exact h1

/-! ## The step timers -/

theorem Motion.setDriveTime (h : Motion s) (ms : Nat) : Motion (s.setDriveTime ms) := h.congr rfl

theorem Motion.serveLead (h : Motion s) {r : Run} {c : CurStep} {d : StepDef} (hw : s.walked = some (r, c, d))
    (hc : c.state = .leading) : Motion (s.serveLead r c d) := by
  obtain ⟨hr, hcur, -, -⟩ := walked_spec hw
  have hstill : Still s := h.still_of_cur hcur fun hd => by rw [hc] at hd; cases hd
  have hserved : Motion (s.setRun { r with leadServed := true }) := h.setRun hstill hr rfl rfl
  refine hserved.sameRun (enterOpening_outer ..) ?_ (drives_of_still ?_)
  · exact congrArg RunUnit.run (enterOpening_runs ..)
  · exact Still.enterOpening (s := s.setRun _) hstill c d

theorem Motion.recoveryOut (h : Motion s) {r : Run} {c : CurStep} {d : StepDef} (hw : s.walked = some (r, c, d)) :
    Motion (s.recoveryOut c d) := by
  unfold State.recoveryOut
  split
  · exact h.failStep hw ..
  · exact h.failStep hw ..
  all_goals exact h

theorem Motion.stepDone (h : Motion s) {r : Run} {c : CurStep} {d : StepDef} (hw : s.walked = some (r, c, d)) :
    Motion (s.stepDone c d) :=
  h.stopStep hw (cmd := if d.autoRelieve then .relieve else .hold) (by split <;> simp) rfl rfl rfl

/-- The step fails as its drive time reaches the limit (R133). -/
theorem Motion.limited (h : Motion s) {r : Run} {c : CurStep} {d : StepDef} (hw : s.walked = some (r, c, d)) (ms : Nat) :
    Motion ((s.setDriveTime ms).failStep c d .limit true) :=
  Motion.failStep (r := r) (c := c) (h.setDriveTime ms) hw _ _ _

/-- The step is done as its drive time reaches the end (R90). -/
theorem Motion.timed (h : Motion s) {r : Run} {c : CurStep} {d : StepDef} (hw : s.walked = some (r, c, d)) (ms : Nat) :
    Motion ((s.setDriveTime ms).stepDone c d) :=
  Motion.stepDone (r := r) (h.setDriveTime ms) hw

/-! ## Every command -/

theorem restarted_motion (s : State) (p : StrapPins) (l : LogUnit) : Motion (s.restarted p l) :=
  motion_of_no_run rfl rfl off_laws (fun _ => rfl) fun x => by cases x <;> rfl

/-- The laws hold in the state a command goes on in. -/
def Goes (o : Host.Outcome State Fault Refusal) : Prop := ∀ t, o = .next t → Motion t

theorem goes_next (h : Motion t) : Goes (.next t) := fun u hu => by
  obtain rfl := Host.Outcome.next.inj hu
  exact h

theorem goes_finish (h : Motion t) : Goes (.next (finish s t)) := goes_next (h.finish s)

theorem exec_motion (c : Instr) (h : Motion s) : Goes (exec c s) := by
  have off {t : State} (hm : s.member.mstate ≠ .member) (hruns : t.runs = s.runs) (htable : t.table = s.table)
      (hchans : t.chans = s.chans) : Motion t := h.of_no_run (h.no_run_of_not_member hm) hruns htable hchans
  cases c with
  | powerOnReset p => exact goes_next (restarted_motion s p _)
  | externalReset p => exact goes_next ((restarted_motion s p _).congr rfl)
  | loopTest bits slot =>
    refine goes_finish ?_
    unfold State.loopTest
    split
    · rename_i hm
      split
      · exact off (by simp [hm]) rfl rfl rfl
      · exact motion_leave ..
    · exact h
  | attemptStart =>
    refine goes_next ?_
    split
    · exact h
    · split
      · exact h.congr rfl
      · exact h
  | arbitrationLost =>
    refine goes_finish ?_
    split
    · exact h.congr rfl
    all_goals exact h
  | transmitError =>
    refine goes_finish ?_
    split
    · exact h.attemptCounted _ _ _
    all_goals exact h
  | vetoSlot f vetoed => exact goes_finish (h.slot f vetoed)
  | transmitGuard =>
    refine goes_finish ?_
    split
    · exact (motion_leave s .unfit .transmitGuard).congr rfl
    · exact h
  | idleGap =>
    refine goes_next ?_
    split
    · exact h.congr rfl
    · exact h
  | halt => exact goes_finish (takeHalt_motion.process h _)
  | clear => exact goes_finish (takeClear_motion.process h _)
  | evict => exact goes_finish (takeEvict_motion.process h _)
  | yield => exact goes_finish (takeYield_motion.process h _)
  | claim => exact goes_finish (takeClaim_motion.process h _)
  | snapshot => exact goes_finish (takeSnapshot_motion.process h _)
  | join => exact goes_finish (takeJoin_motion.process h _)
  | posture => exact goes_finish (takePosture_motion.process h _)
  | probe => exact goes_finish (takeProbe_motion.process h _)
  | reply => exact goes_finish (takeReply_motion.process h _)
  | listenTimer =>
    refine goes_finish ?_
    split
    · split
      · rename_i hm
        refine Motion.queue ?_ .join
        exact off (by simp [hm]) rfl rfl rfl
      · exact h
    · exact h
  | isolationRestTimer =>
    refine goes_finish ?_
    split
    · split
      · rename_i hm
        exact off (by simp [hm]) rfl rfl rfl
      · exact h
    · exact h
  | joinRepeatTimer =>
    refine goes_finish ?_
    split
    · dsimp only
      split
      · refine Motion.queue ?_ .join
        exact h.congr rfl
      · exact h.congr rfl
    · exact h
  | silenceTimer n =>
    refine goes_finish ?_
    split
    · unfold State.fallSilent
      split
      · refine Motion.queue ?_ _
        exact h.congr rfl
      · split
        · exact h.congr rfl
        · exact h
    · exact h
  | rawInputChange i closed =>
    refine goes_next ?_
    split
    · exact h
    · exact h.congr rfl
  | inputFilterExpiry i =>
    refine goes_finish ?_
    split
    · exact h.filterExpiry i
    · exact h
  | strokePulse | standstillTimer =>
    refine goes_finish ?_
    split
    · exact h.congr rfl
    · exact h
  | roadSpeedPulse =>
    refine goes_finish ?_
    split
    · exact h.congr rfl
    · exact h
  | requestWindowTimer =>
    refine goes_finish ?_
    split
    · exact h.takeLatches
    · exact h
  | channelDriverFault o k =>
    refine goes_finish ?_
    unfold State.channelFault
    split
    · exact h
    · split
      · exact h.setChan nofun
      · exact h
  | lampFault o k =>
    refine goes_finish ?_
    unfold State.lampFault
    split
    · exact h
    · split
      · exact h.congr rfl
      · exact h
  | outputFaultLatch o k =>
    refine goes_finish ?_
    unfold State.outputFault
    split
    · split
      · exact h.congr rfl
      · exact h
    · exact h
  | claimWaitTimer | pauseTimer =>
    refine goes_finish ?_
    split
    · split
      · exact h.enterEnding _ _
      · exact h
    · exact h
  | leadTimer =>
    refine goes_finish ?_
    split
    · rename_i hw
      split
      · rename_i hc
        exact h.serveLead hw hc
      · exact h
    · exact h
  | recoveryTimer =>
    refine goes_finish ?_
    split
    · rename_i hw
      exact h.recoveryOut hw
    · exact h
  | primingTimer =>
    refine goes_finish ?_
    split
    · rename_i hw
      split
      · exact h.failStep hw ..
      · exact h
    · exact h
  | driveLimit =>
    refine goes_finish ?_
    split
    · rename_i hw
      split
      · split
        · exact h.limited hw _
        · exact h
      · exact h
    · exact h
  | driveTimeEnd =>
    refine goes_finish ?_
    split
    · rename_i hw
      split
      · split
        · exact h.timed hw _
        · exact h
      · exact h
    · exact h
  | settleTimer c => exact goes_finish (h.setChan (settled_driving _))
  | dutyLimit | restTimer | plausibilityTimer | groupTimer | testSlotTimer =>
    refine goes_finish ?_
    split
    · exact h.congr rfl
    · exact h
  | idleTimer =>
    refine goes_next ?_
    split
    · exact h.congr rfl
    · exact h
  | posturePeriodTimer =>
    refine goes_next ?_
    split
    · refine Motion.queue ?_ _
      exact h.congr rfl
    · exact h
  | postureSpacingTimer =>
    refine goes_next ?_
    split
    · dsimp only
      split
      · refine Motion.queue ?_ _
        exact h.congr rfl
      · exact h.congr rfl
    · exact h
  | hazardFlashTimer | cabFaultFlashTimer | nodeOkFlashTimer | timeTagTick | answerSent => exact goes_next (h.congr rfl)
  | status l | roster l | table l | log l | peerStatus l | peerLog l | error l =>
    obtain ⟨_, _, he⟩ := portLine_eq s l
    refine goes_next ?_
    rw [he]
    exact h.congr rfl
  | relayTimer =>
    refine goes_next ?_
    split
    · refine Motion.dropPending ?_ _ _
      exact h.congr rfl
    · exact h

theorem Motion.tick (h : Motion s) : Motion s.tick := by
  refine Motion.finish ?_ s
  have drive : Motion s.countDrive := by
    unfold State.countDrive
    split
    · split
      · exact h.congr rfl
      · exact h
    · exact h
  unfold State.countPump
  split
  · exact drive.congr rfl
  · exact drive

theorem Motion.step (h : Motion s) (ht : step s = .next t) : Motion t := by
  unfold Machine.step at ht
  split at ht
  · obtain rfl := Host.Outcome.next.inj ht
    exact h.tick
  · rename_i c q _
    exact exec_motion (s := s.withPending q) c (h.congr rfl) t ht

/-- A DRIVING channel is the walked step's, so the run is RUNNING, holds its claim and is a MEMBER's. -/
theorem Motion.of_driving (h : Motion s) {c : Chan} (hc : (s.chans.get c).state.isDriving = true) :
    s.member.mstate = .member ∧ s.table.halt.latch = none ∧ s.ownGranted = true ∧
      ∃ r, s.runs.run = some r ∧ r.phase = .running ∧ r.mode = .held := by
  have hd := h.drives c hc
  unfold State.drivenChan at hd
  split at hd
  · rename_i hw
    obtain ⟨hr, -, hp, -⟩ := walked_spec hw
    obtain ⟨hheld, hgranted⟩ := (h.mode _ hr).1 (.inl hp)
    refine ⟨h.member (by rw [hr]; exact nofun), ?_, hgranted, _, hr, hp, hheld⟩
    by_contra hl
    rw [(h.latched hl).2] at hr
    cases hr
  · cases hd

end

/-- Settles O57: the laws are kept operation by operation (`exec_motion`, `Motion.finish`), and a DRIVING channel is that
of the step that walks (`Motion.of_driving`). -/
theorem motionNeedsAGrantedClaim : Obligations.MotionNeedsAGrantedClaim := by
  unfold Obligations.MotionNeedsAGrantedClaim
  refine ⟨fun s t h ht => ?_, fun s c d h hd => ?_⟩
  · exact (motionLaws_iff t).2 (((motionLaws_iff s).1 h).step ht)
  · exact ((motionLaws_iff s).1 h).of_driving (by rw [hd]; rfl)

end Sys2Proof.Motions
end

section
/-! What the commands leave alone: body, link and port under the local commands (O4), and the line unit under every
command but its own (O5). -/

namespace Sys2Proof.LocalCommands

open Sys2Proof.Machine Sys2Proof.Laws Sys2Proof.LocalLines Sys2Proof.BlockLaws

/-! ## The body under the local commands -/

/-- What the local commands leave: membership unit, replica, port, time tag, and the link but for the transmit list. -/
def body (s : State) :=
  (s.member, s.table, s.link.rx, s.link.line, s.link.vetoRun, s.link.driverCut, s.link.footing, s.port, s.log.tag)

variable {s t u : State}

theorem body_of_outer (h : outer t = outer s) : body t = body s := by
  obtain ⟨-, -, hmember, htable, -, hport, -, htag, hrx, hline, hveto, hcut, hfoot⟩ := outer_fields h
  simp only [body, hmember, htable, hport, htag, hrx, hline, hveto, hcut, hfoot]

theorem finish_body (old s : State) : body (finish old s) = body s := body_of_outer (finish_outer old s)

/-- The commands of lines, drivers, engines, pump, beacons and postures, and the time tag's. -/
def isLocal : Instr → Bool
  | .rawInputChange _ _ | .inputFilterExpiry _ | .strokePulse | .roadSpeedPulse | .standstillTimer
  | .requestWindowTimer | .channelDriverFault _ _ | .lampFault _ _ | .outputFaultLatch _ _ | .claimWaitTimer
  | .pauseTimer | .settleTimer _ | .leadTimer | .recoveryTimer | .primingTimer | .driveLimit | .driveTimeEnd
  | .posturePeriodTimer | .postureSpacingTimer | .idleTimer | .dutyLimit | .restTimer | .plausibilityTimer
  | .groupTimer _ _ _ | .hazardFlashTimer | .testSlotTimer _ _ | .cabFaultFlashTimer | .nodeOkFlashTimer
  | .timeTagTick => true
  | _ => false

@[simp] theorem queue_body (s : State) (f : TxFrame) : body (s.queue f) = body s := body_of_outer (queue_outer s f)

@[simp] theorem setHeld_body (s : State) (h : HeldDetector) : body (s.setHeld h) = body s := rfl

@[simp] theorem heldBegin_body (s : State) (f : LiftFn) : body (s.heldBegin f) = body s :=
  body_of_outer (heldBegin_outer s f)

@[simp] theorem heldEnd_body (s : State) (f : LiftFn) : body (s.heldEnd f) = body s := body_of_outer (heldEnd_outer s f)

@[simp] theorem stopPress_body (s : State) (src : StopSource) : body (s.stopPress src) = body s := by
  unfold State.stopPress
  dsimp only
  split
  · exact (body_of_outer (withdraw_outer ..)).trans (queue_body ..)
  · rfl

@[simp] theorem ackPress_body (s : State) : body s.ackPress = body s := by
  unfold State.ackPress
  extract_lets _ s1
  split
  · exact queue_body s1 _
  · rfl

@[simp] theorem pendantOn_body (s : State) (i : Fin 16) : body (s.pendantOn i) = body s := by
  unfold State.pendantOn
  split
  · split <;> simp
  · split <;> simp
  · rfl

@[simp] theorem pendantOff_body (s : State) (i : Fin 16) : body (s.pendantOff i) = body s := by
  unfold State.pendantOff
  split
  · split <;> simp
  · split <;> simp
  · split <;> simp

@[simp] theorem panelPress_body (s : State) (i : Fin 16) : body (s.panelPress i) = body s := by
  unfold State.panelPress
  split <;> rfl

@[simp] theorem becameActive_body (s : State) (i : Fin 16) : body (s.becameActive i) = body s := by
  unfold State.becameActive
  split
  · simp
  · split
    · simp
    · split
      · split
        · simp
        · split
          · rfl
          · split <;> rfl
      · simp
      all_goals rfl

@[simp] theorem becameInactive_body (s : State) (i : Fin 16) : body (s.becameInactive i) = body s := by
  unfold State.becameInactive
  split
  · split <;> simp
  all_goals rfl

theorem filterExpiry_body (s : State) (i : Fin 16) : body (s.filterExpiry i) = body s := by
  unfold State.filterExpiry
  dsimp only
  split
  · exact becameActive_body ..
  · exact becameInactive_body ..

theorem takeLatches_body (s : State) : body s.takeLatches = body s := by
  unfold State.takeLatches
  extract_lets _ s1
  split
  · rfl
  · exact (body_of_outer (touchRequest_outer s1 _)).trans rfl
  · exact (body_of_outer (touchRequest_outer s1 _)).trans rfl
  · rfl

theorem recoveryOut_outer (s : State) (c : CurStep) (d : StepDef) : outer (s.recoveryOut c d) = outer s := by
  unfold State.recoveryOut
  split <;> simp

/-- In the state a command goes on in, the body is as it was. -/
def SameBody (s : State) (o : Host.Outcome State Fault Refusal) : Prop := ∀ t, o = .next t → body t = body s

theorem sameBody_next (h : body u = body s) : SameBody s (.next u) := fun t ht => by
  obtain rfl := Host.Outcome.next.inj ht
  exact h

theorem sameBody_finish (h : body u = body s) : SameBody s (.next (finish s u)) :=
  sameBody_next ((finish_body s u).trans h)

theorem sameBody_outer (h : outer u = outer s) : SameBody s (.next (finish s u)) := sameBody_finish (body_of_outer h)

theorem exec_body {c : Instr} (h : isLocal c = true) (htag : c ≠ .timeTagTick) (s : State) : SameBody s (exec c s) := by
  cases c with
  | rawInputChange i closed =>
    refine sameBody_next ?_
    split <;> rfl
  | inputFilterExpiry i =>
    refine sameBody_finish ?_
    split
    · exact filterExpiry_body s i
    · rfl
  | strokePulse | roadSpeedPulse | standstillTimer =>
    refine sameBody_finish ?_
    split <;> rfl
  | requestWindowTimer =>
    refine sameBody_finish ?_
    split
    · exact takeLatches_body s
    · rfl
  | channelDriverFault o k =>
    refine sameBody_finish ?_
    unfold State.channelFault
    split
    · rfl
    · split <;> rfl
  | lampFault o k =>
    refine sameBody_finish ?_
    unfold State.lampFault
    split
    · rfl
    · split <;> rfl
  | outputFaultLatch o k =>
    refine sameBody_finish ?_
    unfold State.outputFault
    split
    · split <;> rfl
    · rfl
  | claimWaitTimer | pauseTimer =>
    refine sameBody_outer ?_
    split
    · split <;> simp
    · rfl
  | leadTimer =>
    refine sameBody_outer ?_
    split
    · split
      · simp [State.serveLead]
      · rfl
    · rfl
  | recoveryTimer =>
    refine sameBody_outer ?_
    split
    · exact recoveryOut_outer ..
    · rfl
  | primingTimer =>
    refine sameBody_outer ?_
    split
    · split <;> simp
    · rfl
  | driveLimit | driveTimeEnd =>
    refine sameBody_outer ?_
    split
    · split
      · split <;> simp [State.setDriveTime]
      · rfl
    · rfl
  | settleTimer c => exact sameBody_finish rfl
  | dutyLimit | restTimer | plausibilityTimer | groupTimer | testSlotTimer =>
    refine sameBody_finish ?_
    split <;> rfl
  | idleTimer =>
    refine sameBody_next ?_
    split <;> rfl
  | posturePeriodTimer =>
    refine sameBody_next ?_
    split
    · exact queue_body ..
    · rfl
  | postureSpacingTimer =>
    refine sameBody_next ?_
    split
    · dsimp only
      split
      · exact queue_body ..
      · rfl
    · rfl
  | hazardFlashTimer | cabFaultFlashTimer | nodeOkFlashTimer => exact sameBody_next rfl
  | timeTagTick => exact absurd rfl htag
  | _ => cases h

/-- Settles O4: what follows an event leaves `outer` (`finish_outer`), and the local commands leave the body besides. -/
theorem localCommandsLeaveTheBodyAlone : Obligations.LocalCommandsLeaveTheBodyAlone := by
  unfold Obligations.LocalCommandsLeaveTheBodyAlone
  refine ⟨fun old s => ?_, fun c s t ht hc => ?_⟩
  · obtain ⟨hstraps, hserial, hmember, htable, hlines, hport, hpending, htag, hrx, hline, hveto, hcut, hfoot⟩ :=
      outer_fields (finish_outer old s)
    exact ⟨hstraps, hserial, hmember, htable, hlines, hport, htag, hrx, hline, hveto, hcut, hfoot, hpending⟩
  · have hlocal : isLocal c = true := by
      cases c <;> trivial
    by_cases htag : c = .timeTagTick
    · subst htag
      obtain rfl := Host.Outcome.next.inj ht
      exact ⟨rfl, rfl, rfl, rfl, rfl, rfl, rfl, rfl, fun h => absurd rfl h⟩
    · have hbody := exec_body hlocal htag s t ht
      simp only [body, Prod.mk.injEq] at hbody
      obtain ⟨hmember, htable, hrx, hline, hveto, hcut, hfoot, hport, htag⟩ := hbody
      exact ⟨hmember, htable, hrx, hline, hveto, hcut, hfoot, hport, fun _ => htag⟩

/-! ## The line unit -/

/-- The line unit is as it was, or the node has left the body. -/
def LinesOrLeft (s t : State) : Prop := t.member.mstate = s.member.mstate → t.lines = s.lines

theorem LinesOrLeft.refl (s : State) : LinesOrLeft s s := fun _ => rfl

theorem linesOrLeft_leave {d : Departure} (h : s.member.mstate ≠ d.mstate) (c : Cause) : LinesOrLeft s (u.leave d c) :=
  fun hm => absurd hm.symm h

theorem LinesOrLeft.of_lines (h : t.lines = s.lines) : LinesOrLeft s t := fun _ => h

/-- A processing that keeps the line unit, or leaves the body. -/
def LinesKept (f : RxRec → State → State) : Prop := ∀ r s, LinesOrLeft s (f r s)

theorem LinesKept.process {f : RxRec → State → State} (h : LinesKept f) (s : State) (k : Kind) :
    LinesOrLeft s (s.process k f) := by
  unfold State.process
  split
  · exact .refl s
  · split
    · exact h _ _
    · exact .refl s

theorem isMember_mstate (h : s.isMember = true) : s.member.mstate = .member := beq_iff_eq.1 h

theorem checkDiverged_lines (h : s.isMember = true) (ht : t.member.mstate = s.member.mstate) (hl : t.lines = s.lines) :
    LinesOrLeft s t.checkDiverged := by
  unfold State.checkDiverged
  split
  · exact linesOrLeft_leave (by rw [isMember_mstate h]; exact nofun) _
  · exact .of_lines hl

theorem evict_linesOrLeft (h : s.isMember = true) (n : Node) : LinesOrLeft s (s.evict n) := by
  unfold State.evict
  split
  · exact linesOrLeft_leave (by rw [isMember_mstate h]; exact nofun) _
  · refine .of_lines ?_
    split <;> simp

theorem byPosture_mstate (s : State) (n : Node) (m : PostureMsg) (noted : BitVec 8) :
    (s.byPosture n m noted).member.mstate = s.member.mstate := by
  unfold State.byPosture
  dsimp only
  split
  · rfl
  · have hqueue (u : State) (f : TxFrame) : (u.queue f).member = u.member := by
      rw [queue_eq]
    rw [hqueue]
    rfl
  all_goals rfl

theorem takeClear_lines : LinesKept State.takeClear := fun r s => by
  refine .of_lines ?_
  unfold State.takeClear
  split
  · rfl
  · split <;> simp

theorem takeEvict_lines : LinesKept State.takeEvict := fun r s => by
  unfold State.takeEvict
  split
  · exact .refl s
  · split
    · rename_i hm
      exact evict_linesOrLeft hm _
    · exact .refl s

theorem takeYield_lines : LinesKept State.takeYield := fun r s => by
  refine .of_lines ?_
  unfold State.takeYield
  split
  · rfl
  · split <;> simp

theorem takeClaim_lines : LinesKept State.takeClaim := fun r s => by
  refine .of_lines ?_
  unfold State.takeClaim
  split
  · rfl
  · split <;> simp

theorem snapOwn_linesOrLeft (h : s.member.mstate ≠ .barred) (m : SnapMsg) : LinesOrLeft s (s.snapOwn m) := by
  unfold State.snapOwn
  split
  · exact .of_lines (by simp)
  · exact linesOrLeft_leave h _
  all_goals exact .refl s

theorem takeSnapshot_lines : LinesKept State.takeSnapshot := fun r s => by
  unfold State.takeSnapshot
  split
  · exact .refl s
  · split
    · split
      · rename_i hm
        refine snapOwn_linesOrLeft (fun hb => ?_) _
        simp [State.isMember, hb] at hm
      · exact .refl s
    · refine .of_lines ?_
      split <;> simp

theorem takeJoin_lines : LinesKept State.takeJoin := fun r s => by
  unfold State.takeJoin
  split
  · exact .refl s
  · split
    · exact .refl s
    · rename_i hin
      split
      · refine linesOrLeft_leave (fun hb => ?_) _
        simp [State.isMember, State.isProvisional, hb, Departure.mstate] at hin
      · refine .of_lines ?_
        split <;> simp

theorem takePosture_lines : LinesKept State.takePosture := fun r s => by
  unfold State.takePosture
  split
  · exact .refl s
  · split
    · exact .refl s
    · rename_i hin
      split
      · split
        · refine linesOrLeft_leave (fun hb => ?_) _
          simp [State.isMember, State.isProvisional, hb, Departure.mstate] at hin
        · split
          · rename_i hm
            exact checkDiverged_lines hm rfl rfl
          · exact .refl s
      · split
        · rename_i hm
          refine checkDiverged_lines hm ?_ (by simp)
          rw [byPosture_mstate]
        · exact .of_lines rfl

theorem takeProbe_lines : LinesKept State.takeProbe := fun r s => by
  refine .of_lines ?_
  unfold State.takeProbe
  split
  · rfl
  · split <;> simp

theorem takeReply_lines : LinesKept State.takeReply := fun r s => by
  refine .of_lines ?_
  unfold State.takeReply
  split
  · rfl
  · split <;> rfl

/-- The premise of the last clause, and its conclusion. -/
def LinesStay (s : State) (o : Host.Outcome State Fault Refusal) : Prop := ∀ t, o = .next t → LinesOrLeft s t

theorem linesStay_next (h : LinesOrLeft s u) : LinesStay s (.next u) := fun t ht => by
  obtain rfl := Host.Outcome.next.inj ht
  exact h

theorem linesStay_finish (h : LinesOrLeft s u) : LinesStay s (.next (finish s u)) :=
  linesStay_next fun hm => by
    rw [finish_lines]
    exact h (by rwa [finish_member] at hm)

theorem linesStay_lines (h : u.lines = s.lines) : LinesStay s (.next (finish s u)) := linesStay_finish (.of_lines h)

theorem attemptCounted_linesOrLeft (h : s.mayQueue = true) (k : Kind) (x : Option Node) (l : LineUse) :
    LinesOrLeft s (s.attemptCounted k x l) := by
  unfold State.attemptCounted
  split
  · refine linesOrLeft_leave (fun hb => ?_) _
    simp [State.mayQueue, hb, Departure.mstate] at h
  · exact .of_lines rfl

theorem slot_linesOrLeft (hown : s.link.line.own = true → s.mayQueue = true) (f : LineFrame) (vetoed : Bool) :
    LinesOrLeft s (s.slot f vetoed) := by
  unfold State.slot
  split
  · rename_i hline
    unfold State.ownSlot
    split
    · exact attemptCounted_linesOrLeft (hown (by rw [hline]; rfl)) _ _ _
    · exact .of_lines (by simp)
  · exact .of_lines rfl
  · unfold State.receiveSlot
    split
    · exact .refl s
    · split
      · rename_i hveto
        unfold State.vetoFrame
        split
        · refine linesOrLeft_leave (fun hb => ?_) _
          simp [State.vetoes, State.mayQueue, hb, Departure.mstate] at hveto
        · exact .of_lines rfl
      · refine .of_lines ?_
        split
        · rfl
        · split <;> simp

theorem exec_linesOrLeft {c : Instr} (h : isLineEvent c = false) (hhalt : c ≠ .halt)
    (hown : s.link.line.own = true → s.mayQueue = true) : LinesStay s (exec c s) := by
  cases c with
  | powerOnReset | externalReset | rawInputChange | inputFilterExpiry | strokePulse | roadSpeedPulse | standstillTimer
  | requestWindowTimer | outputFaultLatch => cases h
  | halt => exact absurd rfl hhalt
  | loopTest bits slot =>
    refine linesStay_finish ?_
    unfold State.loopTest
    split
    · rename_i hm
      split
      · exact .of_lines rfl
      · exact linesOrLeft_leave (by rw [hm]; exact nofun) _
    · exact .refl s
  | attemptStart =>
    refine linesStay_next (.of_lines ?_)
    split
    · rfl
    · split <;> rfl
  | arbitrationLost =>
    refine linesStay_lines ?_
    split <;> rfl
  | transmitError =>
    refine linesStay_finish ?_
    split
    · rename_i hline
      exact attemptCounted_linesOrLeft (hown (by rw [hline]; rfl)) _ _ _
    all_goals exact .refl s
  | vetoSlot f vetoed => exact linesStay_finish (slot_linesOrLeft hown f vetoed)
  | transmitGuard =>
    refine linesStay_finish ?_
    split
    · rename_i hm
      refine fun hs => absurd hs.symm fun hb => ?_
      have hb : s.member.mstate = .unfit := hb
      simp [State.mayQueue, hb] at hm
    · exact .refl s
  | idleGap =>
    refine linesStay_next (.of_lines ?_)
    split <;> rfl
  | clear => exact linesStay_finish (takeClear_lines.process _ _)
  | evict => exact linesStay_finish (takeEvict_lines.process _ _)
  | yield => exact linesStay_finish (takeYield_lines.process _ _)
  | claim => exact linesStay_finish (takeClaim_lines.process _ _)
  | snapshot => exact linesStay_finish (takeSnapshot_lines.process _ _)
  | join => exact linesStay_finish (takeJoin_lines.process _ _)
  | posture => exact linesStay_finish (takePosture_lines.process _ _)
  | probe => exact linesStay_finish (takeProbe_lines.process _ _)
  | reply => exact linesStay_finish (takeReply_lines.process _ _)
  | listenTimer | isolationRestTimer =>
    refine linesStay_lines ?_
    split
    · split <;> simp
    · rfl
  | joinRepeatTimer =>
    refine linesStay_lines ?_
    split
    · dsimp only
      split <;> simp
    · rfl
  | silenceTimer n =>
    refine linesStay_lines ?_
    split <;> simp
  | channelDriverFault o k =>
    refine linesStay_lines ?_
    unfold State.channelFault
    split
    · rfl
    · split <;> rfl
  | lampFault o k =>
    refine linesStay_lines ?_
    unfold State.lampFault
    split
    · rfl
    · split <;> rfl
  | claimWaitTimer | pauseTimer =>
    refine linesStay_lines (lines_of_outer ?_)
    split
    · split <;> simp
    · rfl
  | leadTimer =>
    refine linesStay_lines (lines_of_outer ?_)
    split
    · split
      · simp [State.serveLead]
      · rfl
    · rfl
  | recoveryTimer =>
    refine linesStay_lines (lines_of_outer ?_)
    split
    · exact recoveryOut_outer ..
    · rfl
  | primingTimer =>
    refine linesStay_lines (lines_of_outer ?_)
    split
    · split <;> simp
    · rfl
  | driveLimit | driveTimeEnd =>
    refine linesStay_lines (lines_of_outer ?_)
    split
    · split
      · split <;> simp [State.setDriveTime]
      · rfl
    · rfl
  | settleTimer c => exact linesStay_lines rfl
  | dutyLimit | restTimer | plausibilityTimer | groupTimer | testSlotTimer =>
    refine linesStay_lines ?_
    split <;> rfl
  | idleTimer =>
    refine linesStay_next (.of_lines ?_)
    split <;> rfl
  | posturePeriodTimer =>
    refine linesStay_next (.of_lines ?_)
    split <;> simp [State.restartPeriod]
  | postureSpacingTimer =>
    refine linesStay_next (.of_lines ?_)
    split
    · dsimp only
      split <;> simp
    · rfl
  | hazardFlashTimer | cabFaultFlashTimer | nodeOkFlashTimer | timeTagTick | answerSent =>
    exact linesStay_next (.of_lines rfl)
  | status l | roster l | table l | log l | peerStatus l | peerLog l | error l =>
    exact linesStay_next (.of_lines (portLine_lines ..))
  | relayTimer =>
    refine linesStay_next (.of_lines ?_)
    split <;> simp

/-- Settles O5: beside the requests by the earlier frame rule (`exec_leaves_besideRequests`); the whole unit where the
node does not leave the body (`exec_linesOrLeft`). -/
theorem lineUnitIsChangedByItsOwnEvents : Obligations.LineUnitIsChangedByItsOwnEvents := by
  unfold Obligations.LineUnitIsChangedByItsOwnEvents
  intro c s t ht hc
  have hevent : isLineEvent c = false := by
    cases c <;> trivial
  have hbeside := exec_leaves_besideRequests hevent s t ht
  simp only [besideRequests, Prod.mk.injEq] at hbeside
  obtain ⟨hinputs, hheight, hstand, htimer, hlatch⟩ := hbeside
  exact ⟨hinputs, hheight, hstand, htimer, hlatch, fun hown hhalt hm => exec_linesOrLeft hevent hhalt hown t ht hm⟩

end Sys2Proof.LocalCommands
end

section
/-! Steps of the block (O1, O2) and the resets (O6, O7, O8). -/

namespace Sys2Proof.StepsAndResets

open Sys2Proof.Machine Sys2Proof.Laws Sys2Proof.EngineBlocks Sys2Proof.BlockLaws

/-! ## Steps -/

theorem step_of_front {s : State} {c : Instr} {q : List Instr} (h : s.pending = c :: q) :
    step s = exec c { s with pending := q } := by
  unfold step
  simp only [h]
  rfl

theorem step_of_empty {s : State} (h : s.pending = []) : step s = .next (finish s s.countDrive.countPump) := by
  unfold step
  simp only [h]
  rfl

/-- Settles O1: by the definition of a step on a queue that is not empty. -/
theorem stepRunsTheFrontCommand : Obligations.StepRunsTheFrontCommand := by
  unfold Obligations.StepRunsTheFrontCommand
  exact fun c q s h => step_of_front h

theorem countDrive_of_walked {s : State} {r : Run} {c : CurStep} {d : StepDef} (hw : s.walked = some (r, c, d))
    (hc : s.driveCounts c d = true) : s.countDrive = s.setDriveTime (c.driven s.steps.driveTime) := by
  unfold State.countDrive
  simp only [hw, hc, if_true]

/-- Drive time is all that the count of drive time changes. -/
theorem countDrive_eq (s : State) : ∃ ms, s.countDrive = s.setDriveTime ms := by
  unfold State.countDrive
  split
  · split
    · exact ⟨_, rfl⟩
    · exact ⟨_, rfl⟩
  · exact ⟨_, rfl⟩

/-- The running time is all that its count changes. -/
theorem countPump_eq (s : State) : s.countPump = { s with pump := { s.pump with runTime :=
    if s.pump.on = true ∧ s.pump.runTime + 1 < s.fitRow.duty * 1000 then s.pump.runTime + 1 else s.pump.runTime } } := by
  unfold State.countPump State.pumpCounted State.dutyMs
  by_cases hon : s.pump.on = true
  · simp only [hon, if_true, true_and]
  · refine (if_neg hon).trans ?_
    exact (congrArg (fun n => { s with pump := { s.pump with runTime := n } }) (if_neg (not_and_of_not_left _ hon))).symm

/-- Settles O2: both counts change one number each, and `finish` leaves the rest. -/
theorem emptyQueueCountsOneMillisecond : Obligations.EmptyQueueCountsOneMillisecond := by
  unfold Obligations.EmptyQueueCountsOneMillisecond
  refine fun s h => ⟨step_of_empty h, fun r c d hw hc => ?_, _, step_of_empty h, ?_⟩
  · rw [countDrive_of_walked hw hc, State.setDriveTime, CurStep.driven]
    cases c.limit <;> rfl
  · obtain ⟨ms, hms⟩ := countDrive_eq s
    refine ⟨?_, ?_⟩
    · rw [(finish_pump_counts _ _).1, countPump_eq, hms]
      rfl
    · rw [finish_member, finish_table, finish_lines, finish_port, finish_tag, finish_rx, finish_pending, countPump_eq, hms]
      exact ⟨rfl, rfl, rfl, rfl, rfl, rfl, h⟩

/-! ## Resets -/

/-- Settles O6: the reset state, field by field. -/
theorem resetStateHoldsTheStatedValues : Obligations.ResetStateHoldsTheStatedValues := by
  unfold Obligations.ResetStateHoldsTheStatedValues
  have roster : ∀ n : Node, State.reset.member.owed[n] = false ∧ State.reset.entry n = Entry.blank := by decide
  have inputs : ∀ i : Fin 16, State.reset.lines.inputs[i].active = false := by decide
  have outputs : ∀ o : Fin 12, State.reset.lines.outLatch[o] = false := by decide
  refine ⟨rfl, rfl, rfl, rfl, rfl, rfl, rfl, rfl, rfl, rfl, rfl, roster, rfl, rfl, rfl, inputs, rfl, rfl, rfl, rfl, rfl,
    rfl, outputs, rfl, rfl, rfl, fun c => ?_, rfl, fun g => ?_, rfl, rfl, rfl, rfl, rfl, rfl, rfl, rfl, rfl⟩
  · cases c <;> rfl
  · cases g <;> rfl

/-- Settles O8: each law reads a few fields of the reset state. -/
theorem resetStateIsLawful : Obligations.ResetStateIsLawful := by
  unfold Obligations.ResetStateIsLawful
  decide

/-- An input after a reset, as the filter time and the raw level of its kind give it. -/
theorem restart_timer (r : Role) (i : Fin 16) (x : Input) : (Input.restart r i x).timer =
    if isStopLoop r i then (if x.closed then none else some 5) else if x.closed then some 20 else none := by
  unfold Input.restart filterTimer rawActive filterMs
  cases isStopLoop r i <;> cases x.closed <;> rfl

theorem restarted_input (s : State) (p : StrapPins) (l : LogUnit) (i : Fin 16) :
    (s.restarted p l).lines.inputs[i] = Input.restart (s.restarted p l).straps.role i s.lines.inputs[i] := by
  simp [State.restarted, LineUnit.restart]

/-- Settles O7: both resets are `State.restarted`, with the log emptied or cut. -/
theorem resetsLeaveTheResetState : Obligations.ResetsLeaveTheResetState := by
  unfold Obligations.ResetsLeaveTheResetState
  refine ⟨fun p s => ⟨_, powerOnReset_eq s p, rfl, rfl, rfl, rfl, rfl, rfl, rfl, rfl, rfl, rfl, rfl, rfl, rfl, rfl, rfl,
    rfl, rfl, fun i => ?_, rfl, rfl, rfl, rfl, rfl, rfl, fun o => ?_, rfl, rfl, rfl⟩,
    fun p s => ⟨_, _, externalReset_eq s p, powerOnReset_eq s p, rfl, rfl, rfl⟩⟩
  · rw [restarted_input]
    exact ⟨rfl, rfl, restart_timer ..⟩
  · show (Vector.replicate 12 false)[o] = false
    simp

end Sys2Proof.StepsAndResets
end

section
/-! The link controller (chapter 1): the loop test, the attempt and its ends, the receiver's veto slot (O9 to O15). -/

namespace Sys2Proof.Link

open Sys2Proof.Machine Sys2Proof.Laws Sys2Proof.BlockLaws Sys2Proof.FrameProcessing

variable {s : State}

theorem exec_loopTest (bits : List Bool) (slot : Bool) (h : s.member.mstate = .start) :
    exec (.loopTest bits slot) s =
      .next (finish s (if s.loopPasses bits slot then s.enterListen else s.leave .unfit .loopTest)) := by
  change Host.Outcome.next (finish s (s.loopTest bits slot)) = _
  rw [State.loopTest, if_pos h]

/-- Settles O9: the bits driven are the node's own JOIN frame's. -/
theorem loopTestDecidesListenOrUnfit : Obligations.LoopTestDecidesListenOrUnfit := by
  unfold Obligations.LoopTestDecidesListenOrUnfit
  intro bits slot s hm join
  have hpass : s.loopPasses bits slot = true ↔ bits = frameBits 6 s.own join ∧ slot = true := by
    unfold State.loopPasses
    rw [Bool.and_eq_true, beq_iff_eq]
    rfl
  rw [← hpass, exec_loopTest bits slot hm]
  refine ⟨fun h => ⟨_, rfl, ?_⟩, fun h => ⟨_, rfl, ?_⟩⟩
  · rw [if_pos h, finish_member, finish_rx, finish_footing, finish_table]
    exact ⟨rfl, rfl, rfl, rfl⟩
  · rw [if_neg h]
    exact leave_hasLeft s s .unfit .loopTest

/-! ## The ends of an attempt -/

section

variable {k : Kind} {subj : Option Node} {p : List Byte}

theorem exec_arbitrationLost (h : s.link.line = .sending k subj p) :
    exec .arbitrationLost s = .next (finish s (s.attemptLost k subj)) := by
  simp only [exec, execArbitrationLost, h]

theorem exec_transmitError (h : s.link.line = .sending k subj p) :
    exec .transmitError s = .next (finish s (s.attemptCounted k subj .broken)) := by
  simp only [exec, execTransmitError, h]

theorem exec_vetoSlot_own (h : s.link.line = .sending k subj p) (f : LineFrame) (v : Bool) :
    exec (.vetoSlot f v) s = .next (finish s (s.ownSlot k subj p v)) := by
  simp only [exec, execVetoSlot, State.slot, h]

theorem exec_vetoSlot_broken (h : s.link.line = .broken) (f : LineFrame) (v : Bool) :
    exec (.vetoSlot f v) s = .next (finish s { s with link := { s.link with line := .quiet } }) := by
  simp only [exec, execVetoSlot, State.slot, h]

theorem exec_vetoSlot_quiet (h : s.link.line = .quiet) (f : LineFrame) (v : Bool) :
    exec (.vetoSlot f v) s = .next (finish s (s.receiveSlot f v)) := by
  simp only [exec, execVetoSlot, State.slot, h]

end

theorem takesFrames_iff (s : State) : s.takesFrames = true ↔
    s.member.mstate = .listen ∨ s.member.mstate = .joinWait ∨ s.member.mstate = .member := by
  rw [State.takesFrames, Bool.or_eq_true, mayQueue_iff, beq_iff_eq, or_comm]

theorem exec_idleGap (h : s.takesFrames = true) : exec .idleGap s = .next
    { s with link := { s.link with
      footing := true, line := if s.link.line = .broken then .quiet else s.link.line } } := by
  change Host.Outcome.next (if s.takesFrames then _ else _) = _
  rw [if_pos h]
  cases s.link.line <;> rfl

/-- Settles O11: an arm of each command. -/
theorem uncountedEndsFreeTheLine : Obligations.UncountedEndsFreeTheLine := by
  unfold Obligations.UncountedEndsFreeTheLine
  exact fun s => ⟨fun k subj p h => exec_arbitrationLost h, fun f v h => exec_vetoSlot_broken h f v, fun h =>
    exec_idleGap ((takesFrames_iff s).2 h)⟩

/-- Settles O12: both ends count by `State.attemptCounted`, which isolates at the eighth count of a frame. -/
theorem countedAttemptsEndInIsolation : Obligations.CountedAttemptsEndInIsolation := by
  unfold Obligations.CountedAttemptsEndInIsolation
  intro s k subj p f h counted
  have hcount : countAttempt s.link.tx k subj = counted := rfl
  have hveto : s.ownSlot k subj p true = s.attemptCounted k subj .quiet := rfl
  rw [exec_transmitError h, exec_vetoSlot_own h, hveto]
  refine ⟨fun hall => ?_, fun e he hk hsubj hatt => ?_⟩
  · intro kept
    have hused : ¬attemptsUsedUp (countAttempt s.link.tx k subj) = true := by
      rw [hcount, attemptsUsedUp, List.any_eq_true]
      rintro ⟨e, he, h8⟩
      have := hall e he
      rw [decide_eq_true_eq] at h8
      omega
    rw [State.attemptCounted, if_neg hused, State.attemptCounted, if_neg hused]
    exact ⟨rfl, rfl⟩
  · have hused : attemptsUsedUp (countAttempt s.link.tx k subj) = true := by
      rw [attemptsUsedUp, List.any_eq_true]
      refine ⟨_, List.mem_map_of_mem he, ?_⟩
      have hfor : e.isFor k subj = true := by simp [TxEntry.isFor, hk, hsubj]
      rw [if_pos hfor, decide_eq_true_eq]
      show 8 ≤ e.attempts + 1
      omega
    rw [State.attemptCounted, if_pos hused, State.attemptCounted, if_pos hused]
    exact ⟨⟨_, rfl, leave_hasLeft ..⟩, _, rfl, leave_hasLeft ..⟩

/-- The node after its own frame is taken. -/
def ownFrameTaken (s : State) (k : Kind) (subj : Option Node) (p : List Byte) : State :=
  { s with
    link := { s.link with
      line := .quiet, vetoRun := 0
      tx := s.link.tx.filter fun e => !(e.frame.kind == k && e.frame.subject == subj)
      rx := s.link.rx ++ [{ kind := k, sender := s.own, payload := p, noted := s.member.takeCount }] }
    member := { s.member with
      takeCount := s.member.takeCount + (if k.isTable then 1 else 0)
      joinTimer := if k = .join ∧ s.member.mstate = .joinWait then some 500 else s.member.joinTimer }
    post :=
      if k = .posture ∧ s.member.mstate = .member then { s.post with period := some 50, spacing := some 10 }
      else s.post }

theorem ownSlot_taken (s : State) (k : Kind) (subj : Option Node) (p : List Byte) :
    s.ownSlot k subj p false = ownFrameTaken s k subj p := by
  cases k with
  | join =>
    by_cases hm : s.member.mstate = .joinWait <;>
      simp [State.ownSlot, State.take, State.ownTaken, ownFrameTaken, TxEntry.isFor, hm, joinRepeatMs]
  | posture =>
    by_cases hm : s.member.mstate = .member <;>
      simp [State.ownSlot, State.take, State.ownTaken, ownFrameTaken, TxEntry.isFor, hm, posturePeriodMs, postureSpacingMs]
  | _ => rfl

/-- Settles O13: the take of an own frame (`ownSlot_taken`); what follows adds own traffic alone to the transmit list. -/
theorem ownFrameIsTaken : Obligations.OwnFrameIsTaken := by
  unfold Obligations.OwnFrameIsTaken
  intro s k subj p f h
  have hexec : exec (.vetoSlot f false) s = .next (finish s (ownFrameTaken s k subj p)) := by
    rw [exec_vetoSlot_own h, ownSlot_taken]
  refine ⟨hexec, _, hexec, fun e he hk hsubj => ?_, ?_, ?_, ?_, ?_⟩
  · have htraffic : ownTraffic e.frame.kind = true := by
      by_contra hn
      have hmem := (finish_follows s (ownFrameTaken s k subj p)).mem_tx he (Bool.eq_false_iff.2 hn)
      have hkeep := (List.mem_filter.1 hmem).2
      simp [hk, hsubj] at hkeep
    rw [hk] at htraffic
    cases k <;> simp_all [ownTraffic]
  · rw [finish_rx]; rfl
  · rw [finish_member]; rfl
  · rw [finish_member]; rfl
  · rw [finish_table]; rfl

/-! ## The receiver's veto slot -/

theorem receivedWell_iff (f : LineFrame) : receivedWell f = true ↔
    ¬(f.check ≠ crc15 (checkedBits f.cls.val f.sender f.payload) ∨ 48 < f.payload.length ∨ 9 < f.cls.val) := by
  simp only [receivedWell, frameCheckOk, Bool.and_eq_true, beq_iff_eq, decide_eq_true_eq, not_or, not_lt, ne_eq,
    not_not, and_assoc]

theorem receiveSlot_incomplete {f : LineFrame} (h : f.closing = false) (v : Bool) : s.receiveSlot f v = s := by
  unfold State.receiveSlot
  rw [if_pos (by simp [h])]

theorem receiveSlot_vetoed {f : LineFrame} (hm : s.mayQueue = true) (hfoot : s.link.footing = true)
    (hclose : f.closing = true) (hbad : receivedWell f = false ∨ 4 ≤ s.link.rx.length) (v : Bool) :
    s.receiveSlot f v = s.vetoFrame := by
  unfold State.receiveSlot
  rw [if_neg (by simp [State.takesFrames, hm, hfoot, hclose]), if_pos]
  rcases hbad with hbad | hbad <;> simp [State.vetoes, hm, hbad]

/-- A frame received ill, or with no room for it, is not taken. -/
theorem receiveSlot_unvetoed {f : LineFrame} (hm : s.mayQueue = false)
    (hbad : receivedWell f = false ∨ 4 ≤ s.link.rx.length) (v : Bool) : s.receiveSlot f v = s := by
  unfold State.receiveSlot
  split
  · rfl
  · rw [if_neg (by simp [State.vetoes, hm])]
    split
    · rfl
    · refine if_neg ?_
      rcases hbad with hbad | hbad
      · simp [hbad]
      · simp [Nat.not_lt.2 hbad]

/-- Settles O14: the branches of `State.receiveSlot`. -/
theorem receiverVetoesWhatItCannotTake : Obligations.ReceiverVetoesWhatItCannotTake := by
  unfold Obligations.ReceiverVetoesWhatItCannotTake
  intro s f v hline hfoot bad
  have hbad : bad → receivedWell f = false := fun hb => by
    rw [Bool.eq_false_iff]
    exact fun h => (receivedWell_iff f).1 h hb
  rw [exec_vetoSlot_quiet hline]
  refine ⟨fun hc => by rw [receiveSlot_incomplete hc], fun hm hb => ?_, fun hm hc hb => ?_⟩
  · rw [receiveSlot_unvetoed (by simp [State.mayQueue, hm]) (hb.imp_left hbad)]
  · rw [receiveSlot_vetoed ((mayQueue_iff s).2 hm) hfoot hc (hb.imp_left hbad), State.vetoFrame]
    refine ⟨fun hrun => by rw [if_neg (by omega)], fun hrun => ⟨_, rfl, ?_⟩⟩
    rw [if_pos (by omega)]
    exact leave_hasLeft ..

theorem ofCls_cls (k : Kind) : Kind.ofCls k.cls = some k := by
  cases k <;> rfl

theorem receiveSlot_taken {f : LineFrame} {k : Kind} (hm : s.takesFrames = true) (hfoot : s.link.footing = true)
    (hclose : f.closing = true) (hroom : s.link.rx.length < 4) (hwell : receivedWell f = true) (hk : f.cls.val = k.cls)
    (v : Bool) : s.receiveSlot f v = if v then s else s.take k f.sender f.payload false := by
  unfold State.receiveSlot
  rw [if_neg (by simp [hm, hfoot, hclose]), if_neg (by simp [State.vetoes, hwell, hroom]), hk, ofCls_cls]
  cases v <;> simp [hwell, hroom]

/-- A frame taken, before its sender is heard. -/
def takenFrame (s : State) (k : Kind) (n : Node) (p : List Byte) : State :=
  { s with
    link := { s.link with
      rx := s.link.rx ++ [{ kind := k, sender := n, payload := p, noted := s.member.takeCount }], vetoRun := 0 }
    member := { s.member with takeCount := s.member.takeCount + if k.isTable then 1 else 0 } }

/-- Settles O15: a frame received well, with room, reaches `State.take`. -/
theorem receiverTakesAFrame : Obligations.ReceiverTakesAFrame := by
  unfold Obligations.ReceiverTakesAFrame
  rintro s k n p hline hfoot hm hroom hlen hn f hk rfl rfl hcheck hclose
  have hwell : receivedWell f = true := by
    rw [receivedWell_iff, hk, hcheck]
    have : k.cls ≤ 9 := by cases k <;> decide
    simp only [ne_eq, not_true_eq_false, false_or, not_or, not_lt]
    exact ⟨hlen, this⟩
  have hslot := receiveSlot_taken ((takesFrames_iff s).2 hm) hfoot hclose hroom hwell hk
  rw [exec_vetoSlot_quiet hline, exec_vetoSlot_quiet hline, hslot, hslot]
  have htake : s.take k f.sender f.payload false =
      (takenFrame s k f.sender f.payload).setEntry f.sender (s.entry f.sender).hear := by
    unfold State.take
    rw [if_neg (by simp [hn])]
    rfl
  rw [if_pos rfl, if_neg Bool.false_ne_true, htake]
  refine ⟨rfl, _, rfl, ?_⟩
  simp only [State.entry, finish_vetoRun, finish_rx, finish_member, finish_table, finish_line]
  exact ⟨rfl, rfl, rfl, setEntry_entry_self _ _ _, fun m hm => setEntry_entry_ne _ _ hm, rfl, hline⟩

end Sys2Proof.Link
end

section
/-! The attempt (O10): the head of the transmit list, and the contents of frames bit by bit. -/

namespace Sys2Proof.Attempt

open Sys2Proof.Machine Sys2Proof.Laws Sys2Proof.BlockLaws

/-! ## Words of bits -/

/-- Bit `i` of the number whose bits are the list, lowest first. -/
theorem testBit_foldr (l : List Bool) (i : Nat) :
    (l.foldr (fun (b : Bool) acc => b.toNat + 2 * acc) 0).testBit i = l[i]?.getD false := by
  induction l generalizing i with
  | nil => simp
  | cons b l ih =>
    rw [List.foldr_cons]
    generalize hacc : l.foldr (fun (b : Bool) acc => b.toNat + 2 * acc) 0 = acc at ih
    cases i with
    | zero => cases b <;> simp [Nat.testBit_zero, Nat.add_mod]
    | succ i =>
      rw [Nat.testBit_succ, show (b.toNat + 2 * acc) / 2 = acc by cases b <;> simp <;> omega, ih]
      simp

/-- A conditions field holds its list, bit by bit (R78). -/
theorem condWordOf_getLsbD (l : List Bool) {i : Nat} (h : i < 16) : (condWordOf l).getLsbD i = l[i]?.getD false := by
  rw [condWordOf, BitVec.getLsbD_ofNat, testBit_foldr]
  simp [h]

/-- A member set holds the members (R78): as a number, it is the word of the nodes' bits. -/
theorem sum_pow_filter (p : Node → Bool) :
    ((allNodes.filter p).map fun n => 2 ^ n.val).sum =
      ((allNodes.map p).foldr (fun (b : Bool) acc => b.toNat + 2 * acc) 0) := by
  have step (n : Node) (l : List Node) : (((n :: l).filter p).map fun n => 2 ^ n.val).sum =
      (p n).toNat * 2 ^ n.val + ((l.filter p).map fun n => 2 ^ n.val).sum := by
    cases hp : p n <;> simp [hp]
  simp only [allNodes, step, List.map_cons, List.map_nil, List.foldr_cons, List.foldr_nil, List.filter_nil, List.sum_nil]
  simp
  ring

theorem memberSet_getLsbD (s : State) (n : Node) :
    s.memberSet.getLsbD n.val = true ↔ (s.entry n).state = .member := by
  rw [State.memberSet, State.members, sum_pow_filter, BitVec.getLsbD_ofNat, testBit_foldr]
  have hn : (allNodes.map fun k => (s.entry k).state == .member)[n.val]?.getD false = ((s.entry n).state == .member) := by
    fin_cases n <;> rfl
  rw [hn]
  simp [n.isLt]

/-! ## The head of the transmit list -/

theorem headFrame_mem {l : List TxEntry} {x : TxEntry} (h : headFrame l = some x) : x ∈ l := by
  induction l generalizing x with
  | nil => cases h
  | cons e l ih =>
    unfold headFrame at h
    cases hl : headFrame l with
    | none =>
      simp only [hl] at h
      obtain rfl := Option.some.inj h
      exact List.mem_cons_self
    | some y =>
      simp only [hl] at h
      split at h
      · obtain rfl := Option.some.inj h
        exact List.mem_cons_self
      · obtain rfl := Option.some.inj h
        exact List.mem_cons_of_mem _ (ih hl)

/-- The first frame of the lowest class is the head (R15). -/
theorem headFrame_eq {a b : List TxEntry} {e : TxEntry} (ha : ∀ x ∈ a, e.frame.kind.cls < x.frame.kind.cls)
    (hb : ∀ x ∈ b, e.frame.kind.cls ≤ x.frame.kind.cls) : headFrame (a ++ e :: b) = some e := by
  induction a with
  | nil =>
    rw [List.nil_append, headFrame]
    cases hl : headFrame b with
    | none => rfl
    | some x => exact if_pos (hb x (headFrame_mem hl))
  | cons x a ih =>
    have hx : ¬x.frame.kind.cls ≤ e.frame.kind.cls := Nat.not_le.2 (ha x List.mem_cons_self)
    rw [List.cons_append, headFrame, ih fun y hy => ha y (List.mem_cons_of_mem _ hy)]
    exact if_neg hx

theorem exec_attemptStart_of_head {s : State} {e : TxEntry} (h : headFrame s.link.tx = some e) :
    exec .attemptStart s = .next (if s.mayAttempt e then s.startAttempt e else s) := by
  simp only [exec, execAttemptStart, h]

theorem exec_attemptStart_empty {s : State} (h : s.link.tx = []) : exec .attemptStart s = .next s := by
  simp only [exec, execAttemptStart, h, headFrame]

theorem own_of_quiet_or_broken {l : LineUse} (h : l = .quiet ∨ l = .broken) : l.own = false := by
  rcases h with rfl | rfl <;> rfl

theorem exec_attemptStart_sends {s : State} {e : TxEntry} (h : headFrame s.link.tx = some e)
    (hm : s.member.mstate = .joinWait ∨ s.member.mstate = .member) (hcut : s.link.driverCut = false)
    (hline : s.link.line = .quiet ∨ s.link.line = .broken) (hroom : s.link.rx.length < 4)
    (hsnap : e.frame.kind = .snapshot → s.link.rx = []) : exec .attemptStart s = .next (s.startAttempt e) := by
  rw [exec_attemptStart_of_head h, if_pos]
  have hlast : (e.frame.kind != .snapshot || s.link.rx.isEmpty) = true := by
    by_cases hk : e.frame.kind = .snapshot
    · simp [hsnap hk]
    · simp [hk]
  simp [State.mayAttempt, (mayQueue_iff s).2 hm, hcut, own_of_quiet_or_broken hline, hroom, hlast]

/-- The conditions under which no attempt starts, whatever the frame (R4). -/
theorem mayAttempt_false {s : State} (e : TxEntry)
    (h : (s.member.mstate ≠ .joinWait ∧ s.member.mstate ≠ .member) ∨ s.link.driverCut = true ∨
      4 ≤ s.link.rx.length ∨ ∃ k subj p, s.link.line = .sending k subj p) : s.mayAttempt e = false := by
  rw [Bool.eq_false_iff]
  intro hmay
  simp only [State.mayAttempt, Bool.and_eq_true, Bool.not_eq_true', decide_eq_true_eq] at hmay
  obtain ⟨⟨⟨⟨hqueue, hcut⟩, hroom⟩, hown⟩, -⟩ := hmay
  rcases h with ⟨hj, hm⟩ | hcut' | hfull | ⟨k, subj, p, hline⟩
  · rcases (mayQueue_iff s).1 hqueue with h | h
    · exact hj h
    · exact hm h
  · rw [hcut'] at hcut
    cases hcut
  · omega
  · rw [hline] at hown
    cases hown

theorem exec_attemptStart_idle {s : State}
    (h : (s.member.mstate ≠ .joinWait ∧ s.member.mstate ≠ .member) ∨ s.link.driverCut = true ∨
      4 ≤ s.link.rx.length ∨ s.link.tx = [] ∨ ∃ k subj p, s.link.line = .sending k subj p) :
    exec .attemptStart s = .next s := by
  cases hhead : headFrame s.link.tx with
  | none => simp only [exec, execAttemptStart, hhead]
  | some e =>
    rw [exec_attemptStart_of_head hhead, mayAttempt_false e]
    · rfl
    · rcases h with h | h | h | h | h
      · exact .inl h
      · exact .inr (.inl h)
      · exact .inr (.inr (.inl h))
      · rw [h] at hhead
        cases hhead
      · exact .inr (.inr (.inr h))

/-! ## Contents -/

/-- The conditions of the node's role, by position. -/
theorem condWord_getLsbD (s : State) (i : Fin 16) :
    s.condWord.getLsbD i.val = match (condsOf (some s.straps.role))[i.val]? with | some x => s.cond x | none => false := by
  rw [State.condWord, condWordOf_getLsbD _ i.isLt, List.getElem?_map]
  cases (condsOf (some s.straps.role))[i.val]? <;> rfl

/-- Settles O10: the head frame (`headFrame_eq`), and the contents bit by bit. -/
theorem attemptSendsTheHeadFrame : Obligations.AttemptSendsTheHeadFrame := by
  unfold Obligations.AttemptSendsTheHeadFrame
  intro first
  refine ⟨fun s e he => ?_, fun s => ⟨s.memberSet, s.condWord, ?_⟩, fun s => ?_, fun s => exec_attemptStart_idle⟩
  · obtain ⟨a, b, htx, ha, hb⟩ := he
    have hhead : headFrame s.link.tx = some e := by rw [htx, headFrame_eq ha hb]
    refine ⟨exec_attemptStart_sends hhead, fun hk hrx => ?_⟩
    rw [exec_attemptStart_of_head hhead, if_neg]
    simp [State.mayAttempt, hk, hrx]
  · intro positions summary
    refine ⟨memberSet_getLsbD s, fun i => ?_, ?_⟩
    · have hpos : positions = condsOf (some s.straps.role) := by
        simp only [positions]
        cases s.straps.role <;> rfl
      rw [hpos]
      exact condWord_getLsbD s i
    · have hsum : summary = s.summary.bytes := by
        simp only [summary, State.summary]
        cases s.runs.run with
        | none => rfl
        | some r => cases s.steps.cur <;> rfl
      have hlatch : (if s.table.halt.latch = none then (0 : Byte) else 1) = byte s.latched.toNat := by
        rw [State.latched]
        cases s.table.halt.latch <;> rfl
      rw [hsum, hlatch]
      rfl
  · intro echo
    refine ⟨fun src => by cases src <;> rfl, rfl, rfl, fun n => rfl, fun set units man => ?_, ?_, fun n q => ?_,
      fun n q x => ?_⟩
    · intro weight
      have hset : set.code = weight set.pump 1 + weight set.rear 2 + weight set.kerb 4 + weight set.road 8 := by
        obtain ⟨pump, rear, kerb, road⟩ := set
        cases pump <;> cases rear <;> cases kerb <;> cases road <;> rfl
      rw [← hset]
      rfl
    · intro role
      have hrole : byte s.straps.roleSide.code = role := by
        simp only [role, Straps.roleSide]
        cases s.straps.role with
        | hatch => cases s.straps.side <;> rfl
        | _ => rfl
      rw [← hrole]
      rfl
    · cases q <;> rfl
    · cases q <;> cases x <;> rfl

end Sys2Proof.Attempt
end

section
/-! O59: the payloads as they travel. Each kind's reading is stated once as an equivalence with the payload's bytes
(R2, R18, R21, R31, R44, R78, R86, R150, R195); the readings of single fields are the lemmas of `Laws/Codes`. -/

namespace Sys2Proof.Payloads

open Sys2Proof.Machine Sys2Proof.Laws

/-! ## Fields -/

/-- Every byte is that of its value. -/
theorem byte_toNat (b : Byte) : byte b.toNat = b := ((eq_byte_iff b _ b.isLt).2 rfl).symm

/-- A byte has the value of a number reduced to 8 bits (R2). -/
theorem toNat_byte_mod (n : Nat) : (byte n).toNat = n % 256 := BitVec.toNat_ofNat n 8

/-- A 16-bit field is written as the bytes it was read from (R2). -/
theorem bytes16_word16 (a b : Byte) : bytes16 (word16 a b) = [a, b] := ((word16_eq_iff a b _).1 rfl).symm

/-- A serial is written as the bytes it was read from (R2). -/
theorem bytes24_word24 (a b c : Byte) : bytes24 (word24 a b c) = [a, b, c] := ((word24_eq_iff a b c _).1 rfl).symm

/-- A 16-bit field reads back (R2). -/
theorem word16_bytes16 (w : BitVec 16) : word16 (w.extractLsb' 8 8) (w.extractLsb' 0 8) = w :=
  (word16_eq_iff _ _ w).2 rfl

/-- Two bytes give a field exactly if they are its bytes (R2). -/
theorem eq_word16_iff (a b : Byte) (w : BitVec 16) :
    word16 a b = w ↔ a = w.extractLsb' 8 8 ∧ b = w.extractLsb' 0 8 := by
  rw [word16_eq_iff]; simp only [bytes16, List.cons.injEq, and_true]

/-- Three bytes give a serial exactly if they are its bytes (R2). -/
theorem eq_word24_iff (a b c : Byte) (w : BitVec 24) :
    word24 a b c = w ↔ a = w.extractLsb' 16 8 ∧ b = w.extractLsb' 8 8 ∧ c = w.extractLsb' 0 8 := by
  rw [word24_eq_iff]; simp only [bytes24, List.cons.injEq, and_true]

/-- A byte gives a small number exactly if it is its byte. -/
theorem toNat_eq_iff (b : Byte) (n : Nat) : b.toNat = n ↔ n < 256 ∧ b = byte n := by
  constructor
  · rintro rfl; exact ⟨b.isLt, (byte_toNat b).symm⟩
  · rintro ⟨hn, rfl⟩; exact toNat_byte n hn

/-- The byte of a manoeuvre (R86). -/
theorem manoeuvre_of_byte (b : Byte) (m : Manoeuvre) : Manoeuvre.ofCode b.toNat = some m ↔ b = byte m.code := by
  rw [manoeuvre_ofCode, eq_byte_iff b m.code (by have := manoeuvre_code_range m; omega)]

/-- The byte of a role and side (R21). -/
theorem roleSide_of_byte (b : Byte) (r : RoleSide) : RoleSide.ofCode b.toNat = some r ↔ b = byte r.code := by
  rw [roleSide_ofCode, eq_byte_iff b r.code (by have := roleSide_code_le r; omega)]

/-- The byte of a membership state (R195). -/
theorem mState_of_byte (b : Byte) (x : MState) : MState.ofCode b.toNat = some x ↔ b = byte x.code := by
  rw [mState_ofCode, eq_byte_iff b x.code (by have := mState_code_le x; omega)]

/-- The byte of a cause (R195). -/
theorem cause_of_byte (b : Byte) (x : Option Cause) : readCause b.toNat = some x ↔ b = byte (causeCode x) := by
  rw [readCause_eq_some, eq_byte_iff b (causeCode x) (by have := causeCode_le x; omega)]

/-- The byte of an outcome (R195). -/
theorem outcome_of_byte (b : Byte) (x : RunOutcome) : RunOutcome.ofCode b.toNat = some x ↔ b = byte x.code := by
  rw [outcome_ofCode, eq_byte_iff b x.code (by have := outcome_code_le x; omega)]

/-- The byte of a record kind (R195). -/
theorem recKind_of_byte (b : Byte) (x : RecKind) : RecKind.ofCode b.toNat = some x ↔ b = byte x.code := by
  rw [recKind_ofCode, eq_byte_iff b x.code (by have := recKind_code_le x; omega)]

/-- The kind of a class (section 1.2). -/
theorem kind_ofCls (n : Nat) (k : Kind) : Kind.ofCls n = some k ↔ k.cls = n := by
  constructor
  · unfold Kind.ofCls; split <;> intro h <;> cases h <;> rfl
  · rintro rfl; cases k <;> rfl

/-! ## Payloads of one record -/

/-- The stop source of a HALT (R150). -/
theorem readHaltPayload_eq_some (p : List Byte) (x : StopSource) :
    readHaltPayload p = some x ↔ p = haltPayload x := by
  constructor
  · intro h
    unfold readHaltPayload at h
    split at h
    case h_2 => cases h
    case h_1 b =>
      split at h
      case isTrue h0 => cases h; rw [(eq_byte_iff b 0 (by omega)).2 h0]; rfl
      case isFalse =>
        split at h
        case isTrue h1 => cases h; rw [(eq_byte_iff b 1 (by omega)).2 h1]; rfl
        case isFalse => cases h
  · rintro rfl; exact readHaltPayload_haltPayload x

/-- A CLEAR or a YIELD carries nothing (section 1.2). -/
theorem readEmptyPayload_eq_some (p : List Byte) : readEmptyPayload p = some () ↔ p = [] := by
  cases p with
  | nil => exact ⟨fun _ => rfl, fun _ => rfl⟩
  | cons b p => exact ⟨nofun, nofun⟩

/-- The subject of an EVICT (R18). -/
theorem readEvictPayload_eq_some (p : List Byte) (n : Node) : readEvictPayload p = some n ↔ p = [byte n.val] := by
  unfold readEvictPayload
  split
  case h_1 b => rw [readNodeByte_eq_some, List.cons.injEq]; exact (and_iff_left rfl).symm
  case h_2 hp => exact ⟨nofun, fun h => (hp _ h).elim⟩

/-- The fields of a CLAIM (R44, R86). -/
theorem readClaimPayload_eq_some (p : List Byte) (m : ClaimMsg) :
    readClaimPayload p = some m ↔ m.set < 256 ∧ m.units < 256 ∧ p = m.payload := by
  obtain ⟨set, units, man⟩ := m
  unfold readClaimPayload
  split
  case h_2 hp => exact ⟨nofun, fun h => (hp _ _ _ h.2.2).elim⟩
  case h_1 a b c =>
    simp only [ClaimMsg.payload, List.cons.injEq, and_true, ← manoeuvre_of_byte c man]
    cases Manoeuvre.ofCode c.toNat with
    | none => simp
    | some x =>
      simp only [Option.some.injEq, ClaimMsg.mk.injEq, toNat_eq_iff]
      tauto

/-- The fields of a JOIN (R21). -/
theorem readJoinPayload_eq_some (p : List Byte) (m : JoinMsg) : readJoinPayload p = some m ↔ p = m.payload := by
  obtain ⟨role, fit, serial⟩ := m
  unfold readJoinPayload
  split
  case h_2 hp => exact ⟨nofun, fun h => (hp _ _ _ _ _ h).elim⟩
  case h_1 r f a b c =>
    simp only [JoinMsg.payload, bytes24, List.cons_append, List.nil_append, List.cons.injEq, and_true,
      ← roleSide_of_byte r role, ← readNodeByte_eq_some f fit, ← eq_word24_iff]
    cases RoleSide.ofCode r.toNat <;> cases readNodeByte f <;> simp

/-- A byte of the loop-test flag (R78). -/
theorem halted_of_byte (h : Byte) (x : Bool) : (h.toNat ≤ 1 ∧ (h.toNat == 1) = x) ↔ h = byte x.toNat := by
  rw [eq_byte_iff h x.toNat (by cases x <;> decide)]
  cases x
  · rw [beq_eq_false_iff_ne, Bool.toNat_false]; omega
  · rw [beq_iff_eq, Bool.toNat_true]; omega

/-- The fields of a POSTURE (R78, R83, R86). -/
theorem readPosturePayload_eq_some (p : List Byte) (m : PostureMsg) :
    readPosturePayload p = some m ↔ m.sum.inRange = true ∧ p = m.payload := by
  obtain ⟨take, members, conds, sum, halted, serial⟩ := m
  unfold readPosturePayload
  split
  case h_2 hp => exact ⟨nofun, fun h => (hp _ _ _ _ _ _ _ _ _ _ _ h.2).elim⟩
  case h_1 t ms c1 c0 s1 s2 s3 h a b c =>
    have hs : sum.inRange = true ∧ [s1, s2, s3] = sum.bytes ↔ readSummary s1 s2 s3 = some sum :=
      (readSummary_eq_some s1 s2 s3 sum).symm
    simp only [Summary.bytes, List.cons.injEq, and_true] at hs
    simp only [PostureMsg.payload, Summary.bytes, bytes16, bytes24, List.cons_append, List.nil_append, List.cons.injEq,
      and_true, ← halted_of_byte h halted]
    cases hr : readSummary s1 s2 s3 with
    | none => rw [hr] at hs; simp only [reduceCtorEq, iff_false] at hs ⊢; tauto
    | some x =>
      rw [hr, Option.some.injEq] at hs
      simp only [Option.ite_none_right_eq_some, Option.some.injEq, PostureMsg.mk.injEq, ← hs, eq_word16_iff,
        eq_word24_iff]
      tauto

/-- The fields of a PROBE (R195). -/
theorem readProbePayload_eq_some (p : List Byte) (m : ProbeMsg) : readProbePayload p = some m ↔ p = m.payload := by
  obtain ⟨target, req⟩ := m
  unfold readProbePayload
  split
  case h_2 hp => exact ⟨nofun, fun h => by cases req <;> exact (hp _ _ _ h).elim⟩
  case h_1 t r i =>
    rw [ProbeMsg.payload, List.cons.injEq, ← readNodeByte_eq_some, ← readReq_eq_some]
    cases readNodeByte t <;> cases readReq r i <;> simp

/-! ## The status summary and the log record -/

/-- Ten bytes read as a status summary exactly if its run summary and its halt state are in range and they are its
bytes (R195). -/
theorem readStatusSummary_eq_some (p : List Byte) (x : StatusSummary) :
    readStatusSummary p = some x ↔ x.sum.inRange = true ∧ x.halt.laws = true ∧ p = x.bytes := by
  obtain ⟨mstate, cause, conds, sum, halt, take⟩ := x
  unfold readStatusSummary
  split
  case h_2 hp =>
    exact ⟨nofun, fun h => by obtain ⟨latch, n⟩ := halt; cases latch <;> exact (hp _ _ _ _ _ _ _ _ _ _ h.2.2).elim⟩
  case h_1 m c c1 c0 s1 s2 s3 hl hc t =>
    have hsplit : [m, c, c1, c0, s1, s2, s3, hl, hc, t] = StatusSummary.bytes ⟨mstate, cause, conds, sum, halt, take⟩ ↔
        MState.ofCode m.toNat = some mstate ∧ readCause c.toNat = some cause ∧ word16 c1 c0 = conds ∧
          [s1, s2, s3] = sum.bytes ∧ [hl, hc] = halt.bytes ∧ t = take := by
      rw [mState_of_byte, cause_of_byte, eq_word16_iff]
      obtain ⟨latch, n⟩ := halt
      cases latch <;>
        simp only [StatusSummary.bytes, bytes16, Summary.bytes, HaltState.bytes, List.cons_append, List.nil_append,
          List.cons.injEq, and_true] <;> tauto
    have hfields : sum.inRange = true ∧ halt.laws = true ∧
        [m, c, c1, c0, s1, s2, s3, hl, hc, t] = StatusSummary.bytes ⟨mstate, cause, conds, sum, halt, take⟩ ↔
        MState.ofCode m.toNat = some mstate ∧ readCause c.toNat = some cause ∧ readSummary s1 s2 s3 = some sum ∧
          readHalt hl hc = some halt ∧ word16 c1 c0 = conds ∧ t = take := by
      rw [readSummary_eq_some, readHalt_eq_some, hsplit]; tauto
    rw [hfields]
    cases MState.ofCode m.toNat <;> cases readCause c.toNat <;> cases readSummary s1 s2 s3 <;> cases readHalt hl hc <;>
      simp
    tauto

end Sys2Proof.Payloads
end

section
/-! O59, continued: the SNAPSHOT, the log record and the REPLY, and the obligation assembled from the readings. -/

namespace Sys2Proof.Payloads

open Sys2Proof.Machine Sys2Proof.Laws Sys2Proof.ClaimLaws

/-! ## The SNAPSHOT -/

/-- Bytes read as a claim list exactly if its records are in range and they are its bytes (R44, R86). -/
theorem readClaimRecs_eq_some (p : List Byte) (l : List ClaimRec) :
    readClaimRecs p = some l ↔ (∀ r ∈ l, r.inRange = true) ∧ p = l.flatMap ClaimRec.bytes := by
  induction l generalizing p with
  | nil =>
    unfold readClaimRecs
    split
    case h_1 => exact ⟨fun _ => ⟨nofun, rfl⟩, fun _ => rfl⟩
    case h_2 a b c d rest => cases readClaimRec a b c d <;> cases readClaimRecs rest <;> simp
    case h_3 hp _ => exact ⟨nofun, fun h => (hp h.2).elim⟩
  | cons r l ih =>
    unfold readClaimRecs
    split
    case h_1 => exact ⟨nofun, fun h => by cases h.2⟩
    case h_2 a b c d rest =>
      have hrec := readClaimRec_eq_some a b c d r
      have hbytes : a :: b :: c :: d :: rest = (r :: l).flatMap ClaimRec.bytes ↔
          [a, b, c, d] = r.bytes ∧ rest = l.flatMap ClaimRec.bytes := by
        simp [ClaimRec.bytes, and_assoc]
      rw [hbytes, List.forall_mem_cons, and_and_and_comm, ← hrec, ← ih]
      cases readClaimRec a b c d <;> cases readClaimRecs rest <;> simp
    case h_3 _ hp => exact ⟨nofun, fun h => (hp _ _ _ _ _ h.2).elim⟩

/-- Bytes read as a roster exactly if they are its entries' (R31). -/
theorem mapM_readRosterByte (p : List Byte) (l : List (EState × Option RoleSide)) :
    p.mapM readRosterByte = some l ↔ p = l.map fun e => rosterByte e.1 e.2 := by
  induction p generalizing l with
  | nil => cases l <;> simp
  | cons b p ih =>
    cases l with
    | nil =>
      rw [List.mapM_cons]
      cases readRosterByte b <;> cases p.mapM readRosterByte <;> simp
    | cons e l =>
      rw [List.mapM_cons, List.map_cons, List.cons.injEq, ← readRosterByte_eq_some, ← ih]
      cases readRosterByte b <;> cases p.mapM readRosterByte <;> simp

/-- At most one record per claimant makes at most 8 records (R45). -/
theorem length_le_of_lawful {m : SnapMsg} (h : m.lawful = true) : m.claims.length ≤ 8 := by
  simp only [SnapMsg.lawful, Bool.and_eq_true] at h
  obtain ⟨⟨⟨⟨hone, _⟩, _⟩, _⟩, _⟩ := h
  have hn := ((onePerClaimant_iff m.claims).1 hone).length_le_card
  rwa [List.length_map, Fintype.card_fin] at hn

/-- The two bytes of a halt state. -/
theorem haltBytes_eq (h : HaltState) : ∃ a b, h.bytes = [a, b] := by
  obtain ⟨latch, n⟩ := h
  cases latch <;> exact ⟨_, _, rfl⟩

/-- A roster in its eight entries. -/
theorem roster_eq {α : Type} (v : Vector α 8) : ∃ a b c d e f g h, v = #v[a, b, c, d, e, f, g, h] :=
  ⟨v[0], v[1], v[2], v[3], v[4], v[5], v[6], v[7], Vector.ext fun i hi => by interval_cases i <;> rfl⟩

/-- The fields of a SNAPSHOT (R31, R44, R63, R150). -/
theorem readSnapPayload_eq_some (p : List Byte) (m : SnapMsg) :
    readSnapPayload p = some m ↔
      m.halt.laws = true ∧ (∀ r ∈ m.claims, r.inRange = true) ∧ m.lawful = true ∧ p = m.payload := by
  constructor
  · intro h
    unfold readSnapPayload at h
    split at h
    case h_2 => cases h
    case h_1 sub f t hl hc e0 e1 e2 e3 e4 e5 e6 e7 n recs =>
      split at h
      case h_2 => cases h
      case h_1 subject fit halt r0 r1 r2 r3 r4 r5 r6 r7 claims hsub hf hh hroster hclaims =>
        rw [Option.ite_none_right_eq_some] at h
        obtain ⟨⟨_, hlen, hlaw⟩, hm⟩ := h
        obtain rfl := Option.some.inj hm
        rw [readNodeByte_eq_some] at hsub hf
        rw [readHalt_eq_some] at hh
        rw [mapM_readRosterByte] at hroster
        rw [readClaimRecs_eq_some] at hclaims
        refine ⟨hh.1, hclaims.1, hlaw, ?_⟩
        have hn : n = byte claims.length := by rw [hlen, byte_toNat]
        simp only [SnapMsg.payload, ← hh.2, ← hclaims.2, ← hsub, ← hf, ← hn]
        exact congrArg (fun x => sub :: f :: t :: hl :: hc :: (x ++ n :: recs)) hroster
  · rintro ⟨hhalt, hclaims, hlaw, rfl⟩
    obtain ⟨subject, fit, take, halt, roster, claims⟩ := m
    obtain ⟨hl, hc, hbytes⟩ := haltBytes_eq halt
    obtain ⟨r0, r1, r2, r3, r4, r5, r6, r7, rfl⟩ := roster_eq roster
    have hlen := length_le_of_lawful hlaw
    have hh : readHalt hl hc = some halt := (readHalt_eq_some hl hc halt).2 ⟨hhalt, hbytes.symm⟩
    have hr : readClaimRecs (claims.flatMap ClaimRec.bytes) = some claims :=
      (readClaimRecs_eq_some _ claims).2 ⟨hclaims, rfl⟩
    have hroster := (mapM_readRosterByte _ [r0, r1, r2, r3, r4, r5, r6, r7]).2 rfl
    have hsub := (readNodeByte_eq_some _ subject).2 rfl
    have hfit := (readNodeByte_eq_some _ fit).2 rfl
    have hn : (byte claims.length).toNat = claims.length := toNat_byte _ (Nat.lt_of_le_of_lt hlen (by omega))
    simp only [List.map_cons, List.map_nil] at hroster
    have hp : SnapMsg.payload ⟨subject, fit, take, halt, #v[r0, r1, r2, r3, r4, r5, r6, r7], claims⟩ =
        byte subject.val :: byte fit.val :: take :: hl :: hc ::
          ([r0, r1, r2, r3, r4, r5, r6, r7].map (fun e => rosterByte e.1 e.2) ++
            byte claims.length :: claims.flatMap ClaimRec.bytes) := by
      simp [SnapMsg.payload, hbytes]
    rw [hp]
    simp only [List.map_cons, List.map_nil, List.cons_append, List.nil_append, readSnapPayload, hsub, hfit, hh, hroster,
      hr, hn, hlaw, hlen, and_self, if_true]

/-! ## The log record -/

/-- The bytes of a log record with the words of its end tag and its height (R195, assumption 17). -/
def logBytes (x : LogRec) (tag height : BitVec 16) : List Byte :=
  [byte x.kind.code] ++ bytes16 x.run ++
    [byte x.depth, byte (codeOr0 Manoeuvre.code x.man), byte (x.idx.getD 0), byte x.outcome.code,
      byte (causeCode x.cause), byte x.retries] ++
    bytes16 x.startTag ++ bytes16 tag ++ [byte (x.endTag.isSome.toNat + 2 * x.height.isSome.toNat)] ++ bytes16 height

theorem logRec_bytes (x : LogRec) : x.bytes = logBytes x (x.endTag.getD 0) (BitVec.ofNat 16 (x.height.getD 0)) := rfl

/-- The ranges of a log record, one by one (R187). -/
theorem logRec_inRange_iff (r : LogRec) :
    r.inRange = true ↔ r.depth ≤ 2 ∧ r.retries ≤ 3 ∧ (∀ i, r.idx = some i → 1 ≤ i ∧ i ≤ 3) ∧
      (∀ h, r.height = some h → h ≤ 1103) ∧ (r.man = none → r.kind = .request ∨ r.kind = .restart) := by
  obtain ⟨kind, run, depth, man, idx, outcome, cause, retries, startTag, endTag, height⟩ := r
  cases idx <;> cases height <;> cases man <;> simp [LogRec.inRange, and_assoc]

/-- The code of a manoeuvre or of none is at most 10 (R86). -/
theorem manCode_le (m : Option Manoeuvre) : codeOr0 Manoeuvre.code m ≤ 10 := by
  cases m with
  | none => exact Nat.zero_le 10
  | some m => exact (manoeuvre_code_range m).2

/-- A code up to 10 is that of its manoeuvre, or 0 (R86). -/
theorem manCode_ofCode {n : Nat} (hn : n ≤ 10) : codeOr0 Manoeuvre.code (Manoeuvre.ofCode n) = n := by
  interval_cases n <;> rfl

theorem ofCode_manCode (m : Option Manoeuvre) : Manoeuvre.ofCode (codeOr0 Manoeuvre.code m) = m := by
  cases m with
  | none => rfl
  | some m => exact (manoeuvre_ofCode _ m).2 rfl

/-- Code 0 stands for no manoeuvre alone (R86). -/
theorem manCode_eq_zero {m : Option Manoeuvre} (h : codeOr0 Manoeuvre.code m = 0) : m = none := by
  rw [← ofCode_manCode m, h]; rfl

/-- What is read from sixteen bytes is written as them; an absent end tag or height leaves its word free (R195,
assumption 17). -/
theorem logBytes_of_read {p : List Byte} {x : LogRec} (h : readLogRec p = some x) :
    (x.man = none → x.kind = .request ∨ x.kind = .restart) ∧
      ∃ tag height, p = logBytes x tag height ∧ x.endTag = (if x.endTag.isSome = true then some tag else none) ∧
        x.height = (if x.height.isSome = true then some height.toNat else none) := by
  unfold readLogRec at h
  split at h
  case h_2 => cases h
  case h_1 k r1 r0 d m i o c u s1 s0 e1 e0 p h1 h0 =>
    split at h
    case h_2 => cases h
    case h_1 kind out cause hk ho hc =>
      rw [Option.ite_none_right_eq_some] at h
      obtain ⟨⟨hpres, hm, hzero⟩, hx⟩ := h
      obtain rfl := Option.some.inj hx
      rw [recKind_of_byte] at hk
      rw [outcome_of_byte] at ho
      rw [cause_of_byte] at hc
      have hman : byte (codeOr0 Manoeuvre.code (Manoeuvre.ofCode m.toNat)) = m := by rw [manCode_ofCode hm, byte_toNat]
      have hidx : byte ((if i.toNat = 0 then none else some i.toNat).getD 0) = i := by
        split
        · next h0 => exact ((eq_byte_iff i 0 (by omega)).2 h0).symm
        · exact byte_toNat i
      have hflags : byte ((if p.toNat.testBit 0 then some (word16 e1 e0) else none).isSome.toNat +
          2 * (if p.toNat.testBit 1 then some (word16 h1 h0).toNat else none).isSome.toNat) = p := by
        have hp : p = byte p.toNat := (byte_toNat p).symm
        generalize p.toNat = n at hpres hp
        subst hp
        interval_cases n <;> rfl
      refine ⟨fun hn => hzero ?_, word16 e1 e0, word16 h1 h0, ?_, ?_, ?_⟩
      · have hn' : Manoeuvre.ofCode m.toNat = none := hn
        rw [← manCode_ofCode hm, hn']; rfl
      · simp only [logBytes, hman, hidx, hflags, bytes16_word16, byte_toNat, ← hk, ← ho, ← hc, List.cons_append,
          List.nil_append]
      · cases p.toNat.testBit 0 <;> rfl
      · cases p.toNat.testBit 1 <;> rfl

/-- The presence byte: bit 0 for the end tag, bit 1 for the height (R195). -/
theorem presence_bits (tag height : Bool) :
    (byte (tag.toNat + 2 * height.toNat)).toNat ≤ 3 ∧
      (byte (tag.toNat + 2 * height.toNat)).toNat.testBit 0 = tag ∧
      (byte (tag.toNat + 2 * height.toNat)).toNat.testBit 1 = height := by
  cases tag <;> cases height <;> decide

/-- The bytes of a log record in range read as it (R195). -/
theorem readLogRec_bytes {x : LogRec} (h : x.inRange = true) : readLogRec x.bytes = some x := by
  obtain ⟨hd, hr, hi, hh, hm⟩ := (logRec_inRange_iff x).1 h
  obtain ⟨kind, run, depth, man, idx, outcome, cause, retries, startTag, endTag, height⟩ := x
  simp only at hd hr hi hh hm
  have hmc := manCode_le man
  have hman : (byte (codeOr0 Manoeuvre.code man)).toNat = codeOr0 Manoeuvre.code man := toNat_byte _ (by omega)
  have hidx : (if (byte (idx.getD 0)).toNat = 0 then none else some (byte (idx.getD 0)).toNat) = idx := by
    cases idx with
    | none => rfl
    | some i =>
      obtain ⟨h1, h3⟩ := hi i rfl
      rw [Option.getD_some, toNat_byte i (by omega), if_neg (by omega)]
  obtain ⟨hpres, htagBit, hheightBit⟩ := presence_bits endTag.isSome height.isSome
  have htag : (if endTag.isSome = true then some (endTag.getD 0) else none) = endTag := by cases endTag <;> rfl
  have hheight : (if height.isSome = true then some (BitVec.ofNat 16 (height.getD 0)).toNat else none) = height := by
    cases height with
    | none => rfl
    | some n =>
      have hn : (BitVec.ofNat 16 n).toNat = n := by have := hh n rfl; rw [BitVec.toNat_ofNat]; omega
      exact congrArg some hn
  simp only [LogRec.bytes, bytes16, List.cons_append, List.nil_append, readLogRec, (recKind_of_byte _ kind).2 rfl,
    (outcome_of_byte _ outcome).2 rfl, (cause_of_byte _ cause).2 rfl, word16_bytes16, hidx, htagBit, hheightBit, htag, hheight, hman,
    ofCode_manCode, toNat_byte depth (by omega), toNat_byte retries (by omega)]
  exact if_pos ⟨hpres, hmc, fun h0 => hm (manCode_eq_zero h0)⟩

/-! ## The REPLY -/

/-- A REPLY is its requester, its request, the content kind and the content (R195). -/
theorem readReplyPayload_eq_some (p : List Byte) (n : Node) (q : ProbeReq) (c : ReplyContent) :
    readReplyPayload p = some ⟨n, q, c⟩ ↔
      ∃ k rest, p = byte n.val :: (q.bytes ++ k :: rest) ∧ readReplyContent q k.toNat rest = some c := by
  unfold readReplyPayload
  split
  case h_2 hp =>
    refine ⟨nofun, ?_⟩
    rintro ⟨k, rest, h, _⟩
    cases q <;> exact (hp _ _ _ _ _ h).elim
  case h_1 n' r i k' rest' =>
    have hshape : ∀ k rest, n' :: r :: i :: k' :: rest' = byte n.val :: (q.bytes ++ k :: rest) ↔
        readNodeByte n' = some n ∧ readReq r i = some q ∧ k' = k ∧ rest' = rest := fun k rest => by
      rw [readNodeByte_eq_some, readReq_eq_some]
      cases q <;> simp [ProbeReq.bytes, and_assoc]
    simp only [hshape]
    cases readNodeByte n' with
    | none => simp
    | some who =>
      cases readReq r i with
      | none => simp
      | some q' =>
        constructor
        · intro h
          cases hc : readReplyContent q' k'.toNat rest' with
          | none => simp only [hc, reduceCtorEq] at h
          | some c' =>
            simp only [hc, Option.some.injEq, ReplyMsg.mk.injEq] at h
            obtain ⟨rfl, rfl, rfl⟩ := h
            exact ⟨k', rest', ⟨rfl, rfl, rfl, rfl⟩, hc⟩
        · rintro ⟨k, rest, ⟨hn, hq, rfl, rfl⟩, hc⟩
          obtain rfl := Option.some.inj hn
          obtain rfl := Option.some.inj hq
          simp only [hc]

/-- The content kinds, one by one: nothing, a summary for a request of the status, a record for one of the log
(R195). -/
theorem readReplyContent_eq_some (q : ProbeReq) (k : Nat) (rest : List Byte) (c : ReplyContent) :
    readReplyContent q k rest = some c ↔
      (k = 0 ∧ rest = [] ∧ c = .none) ∨
      (k = 1 ∧ q = .status ∧ ∃ x, readStatusSummary rest = some x ∧ c = .summary x) ∨
      (k = 2 ∧ (∃ i, q = .log i) ∧ ∃ x, readLogRec rest = some x ∧ c = .record x) := by
  unfold readReplyContent
  split
  case h_1 => simp [eq_comm]
  case h_2 => cases readStatusSummary rest <;> simp [eq_comm]
  case h_3 => cases readLogRec rest <;> simp [eq_comm]
  case h_4 h1 h2 h0 =>
    refine ⟨nofun, ?_⟩
    rintro (⟨rfl, rfl, _⟩ | ⟨rfl, rfl, _⟩ | ⟨rfl, ⟨i, rfl⟩, _⟩)
    · exact (h0 rfl rfl).elim
    · exact (h1 rfl rfl).elim
    · exact (h2 i rfl rfl).elim

theorem readReply_none (p : List Byte) (n : Node) (q : ProbeReq) :
    readReplyPayload p = some ⟨n, q, .none⟩ ↔ p = ReplyMsg.payload ⟨n, q, .none⟩ := by
  rw [readReplyPayload_eq_some]
  constructor
  · rintro ⟨k, rest, rfl, h⟩
    rw [readReplyContent_eq_some] at h
    rcases h with ⟨hk, rfl, _⟩ | ⟨_, _, _, _, h⟩ | ⟨_, _, _, _, h⟩
    · rw [(eq_byte_iff k 0 (by omega)).2 hk]; rfl
    · cases h
    · cases h
  · rintro rfl
    exact ⟨byte 0, [], rfl, (readReplyContent_eq_some q _ _ _).2 (.inl ⟨rfl, rfl, rfl⟩)⟩

theorem readReply_summary (p : List Byte) (n : Node) (q : ProbeReq) (x : StatusSummary) :
    readReplyPayload p = some ⟨n, q, .summary x⟩ ↔
      q = .status ∧ x.sum.inRange = true ∧ x.halt.laws = true ∧ p = ReplyMsg.payload ⟨n, q, .summary x⟩ := by
  rw [readReplyPayload_eq_some]
  constructor
  · rintro ⟨k, rest, rfl, h⟩
    rw [readReplyContent_eq_some] at h
    rcases h with ⟨_, _, h⟩ | ⟨hk, hq, y, hy, h⟩ | ⟨_, _, _, _, h⟩
    · cases h
    · obtain rfl := ReplyContent.summary.inj h
      obtain ⟨hsum, hhalt, rfl⟩ := (readStatusSummary_eq_some rest x).1 hy
      refine ⟨hq, hsum, hhalt, ?_⟩
      rw [(eq_byte_iff k 1 (by omega)).2 hk]; rfl
    · cases h
  · rintro ⟨rfl, hsum, hhalt, rfl⟩
    exact ⟨byte 1, x.bytes, rfl, (readReplyContent_eq_some _ _ _ _).2
      (.inr (.inl ⟨rfl, rfl, x, (readStatusSummary_eq_some _ x).2 ⟨hsum, hhalt, rfl⟩, rfl⟩))⟩

/-- A record in range reads back (R195). -/
theorem readReply_record (n : Node) (i : Fin 32) {x : LogRec} (h : x.inRange = true) :
    readReplyPayload (ReplyMsg.payload ⟨n, .log i, .record x⟩) = some ⟨n, .log i, .record x⟩ :=
  (readReplyPayload_eq_some _ n _ _).2 ⟨byte 2, x.bytes, rfl, (readReplyContent_eq_some _ _ _ _).2
    (.inr (.inr ⟨rfl, ⟨i, rfl⟩, x, readLogRec_bytes h, rfl⟩))⟩

/-- What reads as a record is one of a request of the log and has the record's bytes (R195). -/
theorem readReply_record_bytes {p : List Byte} {n : Node} {q : ProbeReq} {x : LogRec}
    (h : readReplyPayload p = some ⟨n, q, .record x⟩) :
    q ≠ .status ∧ (x.man = none → x.kind = .request ∨ x.kind = .restart) ∧
      ∃ tag height, p = [byte n.val] ++ q.bytes ++ [2] ++ logBytes x tag height ∧
        x.endTag = (if x.endTag.isSome = true then some tag else none) ∧
        x.height = (if x.height.isSome = true then some height.toNat else none) := by
  obtain ⟨k, rest, rfl, hc⟩ := (readReplyPayload_eq_some p n q _).1 h
  rw [readReplyContent_eq_some] at hc
  rcases hc with ⟨_, _, h⟩ | ⟨_, _, _, _, h⟩ | ⟨hk, ⟨i, rfl⟩, y, hy, h⟩
  · cases h
  · cases h
  · obtain rfl := ReplyContent.record.inj h
    obtain ⟨hman, tag, height, rfl, htag, hheight⟩ := logBytes_of_read hy
    refine ⟨nofun, hman, tag, height, ?_, htag, hheight⟩
    rw [(eq_byte_iff k 2 (by omega)).2 hk]; rfl

/-! ## The obligation -/

/-- The log record in the obligation's form. -/
theorem logBytes_eq (x : LogRec) (tag height : BitVec 16) :
    logBytes x tag height =
      [byte x.kind.code] ++ bytes16 x.run ++
        [byte x.depth, byte (match x.man with | some m => m.code | none => 0), byte (x.idx.getD 0),
          byte x.outcome.code, byte (causeCode x.cause), byte x.retries] ++ bytes16 x.startTag ++ bytes16 tag ++
        [byte ((if x.endTag.isSome = true then 1 else 0) + if x.height.isSome = true then 2 else 0)] ++
        bytes16 height := by
  obtain ⟨kind, run, depth, man, idx, outcome, cause, retries, startTag, endTag, height'⟩ := x
  cases man <;> cases endTag <;> cases height' <;> rfl

/-- The bits of a frame (R2, R3). -/
theorem checkedBits_eq (cls : Nat) (n : Node) (p : List Byte) :
    checkedBits cls n p =
      ((List.range 7).map fun i => (8 * cls + n.val).testBit (7 - 1 - i)) ++
        ((List.range 6).map fun i => p.length.testBit (6 - 1 - i)) ++
        p.flatMap (fun b => (List.range 8).map fun i => b.toNat.testBit (8 - 1 - i)) := by
  simp only [checkedBits, payloadBits, identifier, bitsOf_eq]

theorem frameBits_eq (cls : Nat) (n : Node) (p : List Byte) :
    frameBits cls n p = [false] ++ checkedBits cls n p ++
      ((List.range 15).map fun i => (crc15 (checkedBits cls n p)).toNat.testBit (15 - 1 - i)) ++ [false] := by
  rw [frameBits, bitsOf_eq]

theorem resSet_code_eq (r : ResSet) :
    r.code = (if r.pump = true then 1 else 0) + (if r.rear = true then 2 else 0) + (if r.kerb = true then 4 else 0) +
      (if r.road = true then 8 else 0) := by
  obtain ⟨a, b, c, d⟩ := r
  cases a <;> cases b <;> cases c <;> cases d <;> rfl

/-- The code of a set, and 16 more in a GRANTED record (R44). -/
theorem claimRec_bytes_eq (r : ClaimRec) :
    r.bytes = [byte r.claimant.val, byte (r.set.code + match r.state with | .waiting => 0 | .granted => 16),
      byte r.units, byte r.man.code] := by
  obtain ⟨claimant, set, units, man, state⟩ := r
  cases state <;> rfl

theorem haltState_bytes_eq (h : HaltState) :
    h.bytes = [match h.latch with | none => 0 | some n => byte (8 + n.val), byte h.count] := by
  obtain ⟨latch, n⟩ := h
  cases latch <;> rfl

theorem posture_payload_eq (m : PostureMsg) :
    m.payload = [m.take, m.members] ++ bytes16 m.conds ++ m.sum.bytes ++ [byte (if m.halted = true then 1 else 0)] ++
      bytes24 m.serial := by
  obtain ⟨take, members, conds, sum, halted, serial⟩ := m
  cases halted <;> rfl

theorem reply_payload_eq (m : ReplyMsg) :
    m.payload = [byte m.requester.val] ++ m.req.bytes ++
      match m.content with
      | .none => [0]
      | .summary x => 1 :: x.bytes
      | .record x => 2 :: x.bytes := by
  obtain ⟨requester, req, content⟩ := m
  cases content <;> rfl

/-- Settles O59: field by field, each payload written and read back. -/
theorem payloadsReadBack : Obligations.PayloadsReadBack := by
  unfold Obligations.PayloadsReadBack
  refine ⟨⟨toNat_byte_mod, bytes16_eq, bytes24_eq, fun cls n p => ⟨checkedBits_eq cls n p, frameBits_eq cls n p⟩, rfl,
    crc15_append⟩, ⟨rfl, kind_ofCls, rfl, rfl, ?_, resSet_code_eq, rfl, rfl, rfl, rfl, by decide, by decide, rfl⟩,
    ⟨rfl, rfl, haltState_bytes_eq, ?_, claimRec_bytes_eq, rfl, fun _ => rfl, fun _ => rfl, ?_, fun _ => rfl,
      fun _ => rfl, posture_payload_eq, fun _ => rfl, fun _ => rfl, reply_payload_eq⟩, fun p => ?_⟩
  · intro st r
    cases r <;> rfl
  · rintro ⟨depth, step, man, idx⟩
    cases step <;> cases man <;> rfl
  · exact fun x => (logRec_bytes x).trans (logBytes_eq x _ _)
  · refine ⟨readHaltPayload_eq_some p, readEmptyPayload_eq_some p, readEvictPayload_eq_some p,
      readClaimPayload_eq_some p, readJoinPayload_eq_some p, readPosturePayload_eq_some p, readProbePayload_eq_some p,
      readSnapPayload_eq_some p, readReply_none p, readReply_summary p, fun n q x => ⟨?_, ?_⟩⟩
    · rintro i rfl hx rfl
      exact readReply_record n i hx
    · intro h
      obtain ⟨hq, hman, tag, height, hp, hends⟩ := readReply_record_bytes h
      rw [logBytes_eq] at hp
      exact ⟨hq, hman, tag, height, hp, hends⟩

end Sys2Proof.Payloads
end

section
/-! O17: what processing a frame does to the receive queue, and the frames that are not for the node (R17, R18, R24). -/

namespace Sys2Proof.Processing

open Sys2Proof.Machine Sys2Proof.Laws Sys2Proof.FrameProcessing Sys2Proof.BlockLaws

/-! ## Frames without effect -/

/-- A malformed frame has no effect (R18). -/
theorem takeFrame_malformed {k : Kind} {r : RxRec} (h : malformed k r.payload = true) (s : State) :
    takeFrame k r s = s := by
  cases k <;> simp only [malformed, Option.isNone_iff_eq_none] at h <;>
    simp only [takeFrame, State.takeHalt, State.takeClear, State.takeEvict, State.takeYield, State.takeClaim,
      State.takeSnapshot, State.takeJoin, State.takePosture, State.takeProbe, State.takeReply, h]

/-- Outside MEMBER a frame that builds no roster has no effect (R17, R24). -/
theorem takeFrame_of_not_member {k : Kind} {s : State} (hm : s.isMember = false) (hjoin : k ≠ .join)
    (hposture : k ≠ .posture) (hsnapshot : k ≠ .snapshot) (r : RxRec) : takeFrame k r s = s := by
  cases k with
  | join => exact (hjoin rfl).elim
  | posture => exact (hposture rfl).elim
  | snapshot => exact (hsnapshot rfl).elim
  | _ =>
    simp only [takeFrame, State.takeHalt, State.takeClear, State.takeEvict, State.takeYield, State.takeClaim,
      State.takeProbe, State.takeReply, hm, Bool.false_and, Bool.false_eq_true, if_false]
    split <;> rfl

/-- A JOIN or POSTURE has no effect where the node neither is MEMBER nor builds a provisional roster (R24). -/
theorem takeFrame_roster_of_outside {s : State} (hm : s.isMember = false) (hp : s.isProvisional = false) (r : RxRec) :
    s.takeJoin r = s ∧ s.takePosture r = s := by
  constructor
  · unfold State.takeJoin
    rw [hm, hp]
    split <;> rfl
  · unfold State.takePosture
    rw [hm, hp]
    split <;> rfl

/-- A SNAPSHOT has no effect on a node that neither is MEMBER nor waits for it as its subject (R32). -/
theorem takeSnapshot_of_outside {s : State} {r : RxRec} (hm : s.isMember = false)
    (hw : s.member.mstate = .joinWait → ∀ w, readSnapPayload r.payload = some w → w.subject ≠ s.own) :
    s.takeSnapshot r = s := by
  unfold State.takeSnapshot
  split
  · rfl
  · next w hread =>
    split
    · next hown =>
      refine if_neg fun hc => ?_
      rw [hm, Bool.false_or, beq_iff_eq] at hc
      exact hw hc w hread hown
    · rw [hm]; rfl

theorem not_member_iff (s : State) : s.isMember = false ↔ s.member.mstate ≠ .member := beq_eq_false_iff_ne

theorem not_provisional_iff (s : State) :
    s.isProvisional = false ↔ s.member.mstate ≠ .listen ∧ s.member.mstate ≠ .joinWait := by
  rw [State.isProvisional, Bool.or_eq_false_iff, beq_eq_false_iff_ne, beq_eq_false_iff_ne]

/-- In START, ISOLATED, BARRED and UNFIT no frame has an effect (R17, R24). -/
theorem takeFrame_of_outside {s : State} (hm : s.isMember = false) (hp : s.isProvisional = false) (k : Kind)
    (r : RxRec) : takeFrame k r s = s := by
  obtain ⟨hjoin, hposture⟩ := takeFrame_roster_of_outside hm hp r
  cases k with
  | join => exact hjoin
  | posture => exact hposture
  | snapshot => exact takeSnapshot_of_outside hm fun hj => absurd hj ((not_provisional_iff s).1 hp).2
  | _ => exact takeFrame_of_not_member hm (by decide) (by decide) (by decide) r

/-! ## The receive queue -/

theorem rx_of_outer {s t : State} (h : outer t = outer s) : t.link.rx = s.link.rx := by
  obtain ⟨-, -, -, -, -, -, -, -, hrx, -⟩ := outer_fields h
  exact hrx

/-- The receive queue is as it was, or the node has left the body and emptied it (R19, R39). -/
def RxOrLeft (s t : State) : Prop :=
  t.link.rx = s.link.rx ∨ t.link.rx = [] ∧ (t.member.mstate = .isolated ∨ t.member.mstate = .barred)

theorem RxOrLeft.refl (s : State) : RxOrLeft s s := .inl rfl

theorem rxOrLeft_of_outer {s t u : State} (h : outer u = outer t) (hrx : t.link.rx = s.link.rx) : RxOrLeft s u :=
  .inl ((rx_of_outer h).trans hrx)

theorem rxOrLeft_leave (s t : State) {d : Departure} (h : d ≠ .unfit) (c : Cause) : RxOrLeft s (t.leave d c) := by
  refine .inr ⟨rfl, ?_⟩
  cases d with
  | isolated => exact .inl rfl
  | barred => exact .inr rfl
  | unfit => exact (h rfl).elim

theorem removeFor_rx (s : State) (n : Node) (v : Verdict) : (s.removeFor n v).link.rx = s.link.rx := by
  have hrecord : (s.removeRecord n).link.rx = s.link.rx := by rw [removeRecord_eq]
  have hverdict (w : Verdict) : ((s.removeRecord n).takeVerdict w).link.rx = s.link.rx :=
    (rx_of_outer (takeVerdict_outer _ w)).trans hrecord
  unfold State.removeFor
  dsimp only
  split
  · split
    · exact hverdict _
    · exact hrecord
  · split
    · exact hverdict _
    · exact hrecord

theorem enterMember_rx (s : State) : s.enterMember.link.rx = s.link.rx := by
  have hqueue (t : State) (f : TxFrame) : (t.queue f).link.rx = t.link.rx := rx_of_outer (queue_outer t f)
  unfold State.enterMember
  dsimp only
  split
  · rw [hqueue, hqueue]; rfl
  · rw [hqueue]; rfl

theorem takeHalt_rx (r : RxRec) (s : State) : RxOrLeft s (s.takeHalt r) := by
  unfold State.takeHalt
  split
  · exact .refl s
  · split
    · exact .inl ((rx_of_outer (endStack_outer (HaltAndClear.withHalt s r.sender) .halted)).trans rfl)
    · exact .refl s

theorem takeClear_rx (r : RxRec) (s : State) : RxOrLeft s (s.takeClear r) := by
  unfold State.takeClear
  split
  · exact .refl s
  · split
    · unfold State.clearHalt
      dsimp only
      split
      · exact rxOrLeft_of_outer (queue_outer _ _) rfl
      · exact .inl rfl
    · exact .refl s

theorem takeEvict_rx (r : RxRec) (s : State) : RxOrLeft s (s.takeEvict r) := by
  unfold State.takeEvict
  split
  · exact .refl s
  · split
    · unfold State.evict
      split
      · exact rxOrLeft_leave s s (by decide) _
      · have gone (t : State) (n : Node) : ((t.dropPending .evict (some n)).removeFor n .removedByYield).link.rx =
            t.link.rx := (removeFor_rx _ _ _).trans (rx_of_outer (dropPending_outer t _ _))
        split
        case h_1 | h_2 => exact .inl (gone _ _)
        all_goals exact .refl s
    · exact .refl s

theorem takeYield_rx (r : RxRec) (s : State) : RxOrLeft s (s.takeYield r) := by
  unfold State.takeYield
  split
  · exact .refl s
  · split
    · exact .inl (removeFor_rx s _ _)
    · exact .refl s

theorem takeClaim_rx (r : RxRec) (s : State) : RxOrLeft s (s.takeClaim r) := by
  unfold State.takeClaim
  split
  · exact .refl s
  · split
    · unfold State.claimFrom
      split
      · split
        · exact rxOrLeft_of_outer (takeVerdict_outer _ _) rfl
        · exact .refl s
      · dsimp only
        split
        · exact rxOrLeft_of_outer (takeVerdict_outer _ _) rfl
        · exact .inl rfl
    · exact .refl s

theorem resync_rx (s : State) : s.resync.link.rx = s.link.rx := by
  unfold State.resync
  split
  · exact (rx_of_outer (queueYield_outer _)).trans (rx_of_outer (endStack_outer s _))
  · rfl

theorem takeSnapshot_rx (r : RxRec) (s : State) : RxOrLeft s (s.takeSnapshot r) := by
  unfold State.takeSnapshot
  split
  · exact .refl s
  · split
    · split
      · unfold State.snapOwn
        split
        · exact .inl ((enterMember_rx _).trans (resync_rx s))
        · exact rxOrLeft_leave s _ (by decide) _
        all_goals exact .refl s
      · exact .refl s
    · split
      · refine .inl ?_
        unfold State.snapOther
        dsimp only
        split <;> rfl
      · exact .refl s

theorem takeJoin_rx (r : RxRec) (s : State) : RxOrLeft s (s.takeJoin r) := by
  unfold State.takeJoin
  split
  · exact .refl s
  · split
    · exact .refl s
    · split
      · exact rxOrLeft_leave s s (by decide) _
      · split
        · refine .inl ?_
          unfold State.joinMember
          dsimp only
          split
          case h_1 | h_2 => exact removeFor_rx s _ _
          all_goals rfl
        · refine .inl ?_
          unfold State.joinProvisional
          split
          · split
            · exact enterMember_rx _
            · rfl
          · rfl

theorem byPosture_rx (s : State) (n : Node) (m : PostureMsg) (noted : BitVec 8) :
    (s.byPosture n m noted).link.rx = s.link.rx := by
  unfold State.byPosture
  dsimp only
  split
  case h_2 => exact (rx_of_outer (queue_outer _ _)).trans rfl
  all_goals rfl

theorem checkDiverged_rx {s t : State} (h : t.link.rx = s.link.rx) : RxOrLeft s t.checkDiverged := by
  unfold State.checkDiverged
  split
  · exact rxOrLeft_leave s t (by decide) _
  · exact .inl h

theorem takePosture_rx (r : RxRec) (s : State) : RxOrLeft s (s.takePosture r) := by
  unfold State.takePosture
  split
  · exact .refl s
  · split
    · exact .refl s
    · split
      · split
        · exact rxOrLeft_leave s s (by decide) _
        · split
          · exact checkDiverged_rx rfl
          · exact .refl s
      · split
        · exact checkDiverged_rx (byPosture_rx s _ _ _)
        · exact .inl rfl

theorem takeProbe_rx (r : RxRec) (s : State) : RxOrLeft s (s.takeProbe r) := by
  unfold State.takeProbe
  split
  · exact .refl s
  · split
    · exact rxOrLeft_of_outer (queue_outer _ _) rfl
    · exact .refl s

theorem takeReply_rx (r : RxRec) (s : State) : RxOrLeft s (s.takeReply r) := by
  unfold State.takeReply
  split
  · exact .refl s
  · split <;> exact .inl rfl

theorem takeFrame_rx (k : Kind) (r : RxRec) (s : State) : RxOrLeft s (takeFrame k r s) := by
  cases k with
  | halt => exact takeHalt_rx r s
  | clear => exact takeClear_rx r s
  | evict => exact takeEvict_rx r s
  | yield => exact takeYield_rx r s
  | claim => exact takeClaim_rx r s
  | snapshot => exact takeSnapshot_rx r s
  | join => exact takeJoin_rx r s
  | posture => exact takePosture_rx r s
  | probe => exact takeProbe_rx r s
  | reply => exact takeReply_rx r s

/-- Settles O17, kind by kind: a frame not for the node leaves it without its head, and a departure alone empties the
queue. -/
theorem processingRemovesTheHead : Obligations.ProcessingRemovesTheHead := by
  unfold Obligations.ProcessingRemovesTheHead
  refine fun k s => ⟨fun h => ?_, ?_⟩
  · rw [exec_frameCommand, process_other h]
  rintro r hr rfl
  have hexec := exec_of_head hr
  have ignored (h : takeFrame r.kind r s.popped = s.popped) :
      exec (frameCommand r.kind) s = .next (finish s s.popped) := by rw [hexec, h]
  refine ⟨fun h => ignored (takeFrame_malformed h _), fun hm hjoin hposture hsnapshot => ignored ?_,
    fun hm hl hj => ignored ?_, fun hk hm hw => ignored ?_, _, hexec, ?_⟩
  · exact takeFrame_of_not_member ((not_member_iff s.popped).2 hm) hjoin hposture hsnapshot r
  · exact takeFrame_of_outside ((not_member_iff s.popped).2 hm) ((not_provisional_iff s.popped).2 ⟨hl, hj⟩) _ r
  · rw [hk]
    exact takeSnapshot_of_outside ((not_member_iff s.popped).2 hm) hw
  · rw [finish_rx, finish_member]
    exact takeFrame_rx r.kind r s.popped

end Sys2Proof.Processing
end

section
/-! O19 and O20: what a HALT ends on the node (R153, R154), and when a CLEAR ends the halt (R158). -/

namespace Sys2Proof.HaltEffects

open Sys2Proof.Machine Sys2Proof.Laws Sys2Proof.FrameProcessing Sys2Proof.BlockLaws Sys2Proof.HaltAndClear

/-! ## The transmit list of a node without a run -/

/-- No pass but the snapshot duty's touches the transmit list. -/
theorem mem_passes_tx {e : TxEntry} (hs : e.frame.kind ≠ .snapshot) :
    ∀ f ∈ passes, ∀ s, e ∈ (f s).link.tx → e ∈ s.link.tx := by
  refine passes_cases (P := fun f => ∀ s, e ∈ (f s).link.tx → e ∈ s.link.tx) ?_ ?_ ?_ ?_ ?_ ?_ ?_ ?_ ?_
  · intro s h
    unfold snapshotPass at h
    split at h
    · exact h
    · split at h
      · exact mem_queue_tx h hs
      · exact mem_withdraw_tx h hs
  · exact fun s h => h
  · intro g s h; unfold demandPass at h; split at h <;> exact h
  · intro s h; unfold lampTestPass at h; split at h <;> exact h
  · intro s h; unfold cabPass at h; split at h <;> exact h
  · intro s h; unfold nodeOkPass at h; split at h <;> exact h
  · intro s h; unfold believePass at h; split at h <;> exact h
  · exact fun s h => h
  · intro s h; unfold plausPass at h; split at h <;> exact h

theorem mem_noteChange_tx {e : TxEntry} (hp : e.frame.kind ≠ .posture) {old s : State}
    (h : e ∈ (State.noteChange old s).link.tx) : e ∈ s.link.tx := by
  rcases noteChange_cases old s with hn | ⟨_, hn | hn | hn⟩ <;> rw [hn] at h
  · exact h
  · exact mem_queue_tx h hp
  · exact h
  · exact mem_queue_tx h hp

theorem passes_runs : ∀ f ∈ passes, ∀ s, (f s).runs = s.runs :=
  fun f hf s => (inner_fields (passes_inner f hf s)).1

/-- A node that holds no run finishes an event with POSTUREs and SNAPSHOTs alone. -/
theorem mem_finish_tx {old s : State} (hr : s.runs.run = none) {e : TxEntry} (hp : e.frame.kind ≠ .posture)
    (hs : e.frame.kind ≠ .snapshot) (h : e ∈ (finish old s).link.tx) : e ∈ s.link.tx := by
  have key : (finish old s).runs.run = none ∧ (e ∈ (finish old s).link.tx → e ∈ s.link.tx) := by
    refine finish_keeps (P := fun t => t.runs.run = none ∧ (e ∈ t.link.tx → e ∈ s.link.tx)) ?_ ?_ ?_ old s ⟨hr, id⟩
    · rintro t u hmove ⟨hrun, -⟩
      rw [engineMove_of_no_run hrun] at hmove
      cases hmove
    · rintro o t ⟨hrun, htx⟩
      exact ⟨by rw [noteChange_runs]; exact hrun, fun hm => htx (mem_noteChange_tx hp hm)⟩
    · rintro f hf t ⟨hrun, htx⟩
      exact ⟨by rw [passes_runs f hf]; exact hrun, fun hm => htx (mem_passes_tx hs f hf t hm)⟩
  exact key.2 h

/-- A withdrawn frame stays pending on the line alone, marked (R16, assumption 7). -/
theorem withdrawn_of_mem {s : State} {k : Kind} {x : Option Node} {e : TxEntry} (he : e ∈ (s.withdraw k x).link.tx)
    (hfor : e.isFor k x = true) : s.link.line.isSending k x = true ∧ e.withdrawn = true := by
  simp only [State.withdraw, withdrawIn] at he
  split at he
  · next hline =>
    refine ⟨hline, ?_⟩
    obtain ⟨y, _, rfl⟩ := List.mem_map.1 he
    split
    · rfl
    · next hy => rw [if_neg hy] at hfor; exact (hy hfor).elim
  · rw [List.mem_filter, hfor] at he
    cases he.2

/-- An EVICT alone has a subject (R14). -/
theorem isFor_of_kind {e : TxEntry} {k : Kind} (hk : e.frame.kind = k) (hevict : k ≠ .evict) : e.isFor k none = true := by
  have hsubject : e.frame.subject = none := by
    cases hf : e.frame with
    | evict n => rw [hf] at hk; exact (hevict hk.symm).elim
    | _ => rfl
  simp [TxEntry.isFor, hk, hsubject]

/-! ## What the HALT leaves -/

theorem heldAfterHalt_congr {s t : State} (hlines : t.lines = s.lines) (hstraps : t.straps = s.straps) :
    t.heldAfterHalt = s.heldAfterHalt := by
  unfold State.heldAfterHalt State.activeFns
  simp only [State.input, hlines, hstraps] <;> rfl

section

variable (s : State) (n : Node) (src : StopSource)

theorem halt_runs : (s.halt n src).runs = { run := none, counter := s.runs.counter, claimWait := none, fn := none } :=
  (endStack_runs (withHalt s n) .halted).1

theorem halt_steps : (s.halt n src).steps = StepUnit.none := (endStack_runs (withHalt s n) .halted).2

theorem halt_chans (x : Chan) : (s.halt n src).chans.get x = (s.chans.get x).after .relieve :=
  endStack_chans (withHalt s n) .halted x

theorem halt_link : (s.halt n src).link = (s.withdraw .claim none).link := endStack_link (withHalt s n) .halted

theorem halt_lines : (s.halt n src).lines =
    { s.lines with openLatch := false, closeLatch := false, window := none, held := s.heldAfterHalt } := by
  obtain ⟨hstraps, -, -, -, hlines, -⟩ := outer_fields (endStack_outer (withHalt s n) .halted)
  have hheld : ((withHalt s n).endStack .halted).heldAfterHalt = s.heldAfterHalt :=
    heldAfterHalt_congr (s := s) hlines hstraps
  show { ((withHalt s n).endStack .halted).lines with
    openLatch := false, closeLatch := false, window := none, held := ((withHalt s n).endStack .halted).heldAfterHalt } = _
  rw [hheld, hlines]
  rfl

/-- The records of a HALT: those of the stack it ends, and behind them the REQUEST record (assumption 12). -/
theorem halt_log :
    (s.halt n src).log = ((s.runRecordsEnded .halted).writeRec (requestRec s none .halted src.cause)).log := by
  have hrequest : requestRec ((withHalt s n).endStack .halted).dropRequests none .halted src.cause =
      requestRec s none .halted src.cause := requestRec_endStack (withHalt s n) .halted none .halted src.cause
  have hended : ((withHalt s n).endStack .halted).log = (s.runRecordsEnded .halted).log := by
    rw [endStack_log]
    unfold State.runRecordsEnded
    cases hr : s.runs.run with
    | none => rw [show (withHalt s n).runs.run = none from hr]; rfl
    | some r => rw [show (withHalt s n).runs.run = some r from hr]; rfl
  rw [halt_eq, writeRequest_eq_writeRec, hrequest]
  simp only [State.writeRec]
  rw [show (((withHalt s n).endStack .halted).dropRequests).log = (s.runRecordsEnded .halted).log from hended]

/-- A CLAIM on the line as the HALT comes is withdrawn, and another leaves at once (R112, assumption 7). -/
theorem halt_claims {e : TxEntry} (he : e ∈ (s.halt n src).link.tx) (hk : e.frame.kind = .claim) :
    s.link.line.isSending .claim none = true ∧ e.withdrawn = true := by
  rw [halt_link] at he
  exact withdrawn_of_mem he (isFor_of_kind hk (by decide))

/-- A latched node has its pump off (R163). -/
theorem pump_off_of_latched {t : State} (hlaws : t.pumpLaws = true) (hl : t.latched = true) : t.pump.on = false := by
  have hon : t.pump.on = t.pumpWanted := beq_iff_eq.1 hlaws
  rw [hon, State.pumpWanted, hl]
  simp

theorem raised_latch (h : HaltState) : (h.raised n).latch.isSome = true := by
  unfold HaltState.raised
  cases h.latch <;> rfl

end

/-- Settles O19: the stack ended, the requests dropped, and the records in the order of assumption 12; with no run left
the engines add nothing. -/
theorem haltStopsTheNode : Obligations.HaltStopsTheNode := by
  unfold Obligations.HaltStopsTheNode
  intro s n src m hm hhead
  have hrun := halt_run s.popped n src
  obtain ⟨hruns, hsteps, hchans, hlog⟩ := inner_fields (finish_inner_of_no_run (old := s) hrun)
  rw [halt_runs] at hruns
  have hlines : (finish s (s.popped.halt n src)).lines =
      { s.lines with openLatch := false, closeLatch := false, window := none, held := s.heldAfterHalt } := by
    rw [finish_lines, halt_lines]; rfl
  have hheld := heldAfterHalt_eq s
  have htable : (finish s (s.popped.halt n src)).table = { claims := [], halt := s.table.halt.raised n } := by
    rw [finish_table, halt_table]; rfl
  rw [halt_log] at hlog
  refine ⟨_, exec_halt hm hhead, ?_, ?_, ?_, ?_, ?_, ?_, ?_, ?_, ?_, ?_, ?_, ?_, ?_, ?_, ?_, ?_, ?_⟩
  · rw [htable]
  · rw [hruns]
  · rw [hsteps, halt_steps]; rfl
  · rw [hruns]
  · rw [hruns]
  · rw [hruns]; rfl
  · intro c
    rw [hchans, halt_chans]
    exact (after_relieve _).1
  · intro e he hk
    exact halt_claims s.popped n src (mem_finish_tx hrun (by simp [hk]) (by simp [hk]) he) hk
  · intro e he hk
    have hu := mem_finish_tx hrun (by simp [hk]) (by simp [hk]) he
    rw [halt_link] at hu
    exact mem_withdraw_tx hu (by simp [hk])
  · rw [hlines]
  · rw [hlines]
  · rw [hlines]
  · intro f
    rw [hlines]
    show s.heldAfterHalt ≠ .held f
    unfold State.heldAfterHalt
    cases s.lines.held
    · dsimp only
      split <;> exact nofun
    all_goals exact nofun
  · rw [finish_member]
    exact halt_member s.popped n src
  · refine pump_off_of_latched (finish_pumpLaws s _) ?_
    rw [State.latched, htable]
    exact raised_latch n s.table.halt
  · rw [hlines]
    exact hheld
  · intro request
    have hrequest : request = requestRec s none .halted src.cause := by cases src <;> rfl
    rw [hlog, hrequest]
    constructor
    · intro hr
      unfold State.runRecordsEnded
      rw [show s.popped.runs.run = none from hr]
      rfl
    · intro r hr
      unfold State.runRecordsEnded
      rw [show s.popped.runs.run = some r from hr]
      rfl

/-! ## CLEAR -/

theorem clears_iff (s : State) (n : Node) : s.clears n = true ↔ ∃ o, s.table.halt.latch = some o ∧
    (n = o ∨ ((s.entry n).role = some .cab ∧ (s.entry o).state ≠ .member)) := by
  unfold State.clears
  cases s.table.halt.latch with
  | none => simp
  | some o => simp

/-- A MEMBER that finds a CLEAR at the head of its queue. -/
theorem exec_clear {s : State} {n : Node} {m : BitVec 8} (hm : s.member.mstate = .member)
    (hhead : s.headIs .clear n [] m) :
    exec .clear s = .next (finish s (if s.clears n = true then s.popped.clearHalt else s.popped)) := by
  have hpopped : s.popped.isMember = true := beq_iff_eq.2 hm
  change execClear s = _
  simp only [execClear, process_head hhead, State.takeClear, readEmptyPayload, hpopped, Bool.true_and]
  rfl

/-- Settles O20: by whether the CLEAR clears, and whether a stop is pressed then. -/
theorem clearEndsTheHalt : Obligations.ClearEndsTheHalt := by
  unfold Obligations.ClearEndsTheHalt
  intro s n m hm hhead clears u
  have hexec := exec_clear hm hhead
  have hsource : u.heldStopSource = if s.input 0 = true then .panel else .pendant := rfl
  refine ⟨fun hc hp => ?_, fun hc hp => ?_, fun hc => ?_⟩
  · rw [hexec, if_pos ((clears_iff s n).2 hc)]
    have hu : u.stopPressed = false := hp
    change _ = Host.Outcome.next (finish s u)
    change Host.Outcome.next (finish s (if u.stopPressed = true then u.queue (.halt u.heldStopSource) else u)) = _
    rw [hu]; rfl
  · rw [hexec, if_pos ((clears_iff s n).2 hc), ← hsource]
    have hu : u.stopPressed = true := hp
    change Host.Outcome.next (finish s (if u.stopPressed = true then u.queue (.halt u.heldStopSource) else u)) = _
    rw [hu]; rfl
  · rw [hexec, if_neg fun h => hc ((clears_iff s n).1 h)]

end Sys2Proof.HaltEffects
end

section
/-! O21 and O22: a record that leaves the claim list with its node, by an EVICT (R35, R59) or by a YIELD (R58). -/

namespace Sys2Proof.Removal

open Sys2Proof.Machine Sys2Proof.Laws Sys2Proof.FrameProcessing Sys2Proof.BlockLaws

/-- A departure is the same with and without the processed frame. -/
theorem hasLeft_of_popped {s t : State} {d : Departure} {c : Cause} (h : hasLeft s.popped t d c) : hasLeft s t d c := by
  unfold hasLeft State.runRecordsEnded at h ⊢
  cases hr : s.runs.run <;> simp only [State.popped, hr] at h ⊢ <;> exact h

/-! ## A removed record -/

theorem ite_ownGranted_congr {s t : State} (h : s.ownGranted = t.ownGranted) (u : State) (a b : State) :
    (if s.ownGranted = false ∧ u.ownGranted = true then a else b) =
      if t.ownGranted = false ∧ u.ownGranted = true then a else b := by
  rw [h]

/-- Whatever the verdict, a record is removed by updates that follow an event (R64, R65). -/
theorem removeFor_follows (s : State) (n : Node) (v : Verdict) :
    Follows { s with table := (s.removeRecord n).table } (s.removeFor n v) := by
  by_cases hn : n = s.own
  · subst hn
    rw [removeFor_own]
    split
    · exact takeVerdict_follows _ _
    · exact .refl _
  · rw [removeFor_peer hn]
    split
    · exact takeVerdict_follows _ _
    · exact .refl _

/-- The claim list without the record of a node (R58). -/
theorem removeRecord_claims (s : State) (n : Node) :
    (s.removeRecord n).table.claims =
      if ∃ r ∈ s.table.claims, r.claimant = n then evalGrants (s.table.claims.filter fun r => r.claimant != n)
      else s.table.claims := by
  have hiff := ClaimTable.hasClaim_iff s.table.claims n
  rw [removeRecord_table]
  by_cases h : ∃ r ∈ s.table.claims, r.claimant = n
  · rw [if_pos h]
    exact if_pos (hiff.2 h)
  · rw [if_neg h]
    exact if_neg (mt hiff.1 h)

theorem removeRecord_halt (s : State) (n : Node) : (s.removeRecord n).table.halt = s.table.halt := by
  rw [removeRecord_table]

/-! ## EVICT -/

/-- A MEMBER that finds an EVICT at the head of its queue. -/
theorem exec_evict {s : State} {n x : Node} {m : BitVec 8} (hm : s.member.mstate = .member)
    (hhead : s.headIs .evict n [byte x.val] m) : exec .evict s = .next (finish s (s.popped.evict x)) := by
  have hread : readEvictPayload [byte x.val] = some x := (Payloads.readEvictPayload_eq_some _ x).2 rfl
  have hpopped : s.popped.isMember = true := beq_iff_eq.2 hm
  change execEvict s = _
  simp only [execEvict, process_head hhead, State.takeEvict, hread, hpopped, if_true]

/-- The node once the peer of an EVICT has left: its entry ABSENT, no snapshot owed to it, no EVICT of it pending that is
not on the line (R35, assumption 36). -/
def gone (s : State) (x : Node) : State :=
  ((s.setEntry x { s.entry x with state := .absent, silence := none }).setOwed x false).dropPending .evict (some x)

theorem gone_outer (s : State) (x : Node) :
    outer (gone s x) = outer ((s.setEntry x { s.entry x with state := .absent, silence := none }).setOwed x false) :=
  dropPending_outer _ _ _

theorem evict_of_body {s : State} {x : Node} (hx : x ≠ s.own)
    (h : (s.entry x).state = .member ∨ (s.entry x).state = .joining) :
    s.evict x = (gone s x).removeFor x .removedByYield := by
  unfold State.evict
  rw [if_neg hx]
  rcases h with h | h <;> rw [h] <;> rfl

theorem evict_of_other {s : State} {x : Node} (hx : x ≠ s.own)
    (h : (s.entry x).state = .unknown ∨ (s.entry x).state = .absent ∨ (s.entry x).state = .barred) :
    s.evict x = s := by
  unfold State.evict
  rw [if_neg hx]
  rcases h with h | h | h <;> rw [h]

/-- No EVICT of a departed peer is pending but on the line. -/
theorem gone_tx {s : State} {x : Node} (h : s.link.line.isSending .evict (some x) = false) {e : TxEntry}
    (he : e ∈ (gone s x).link.tx) : e.frame ≠ .evict x := by
  rintro hf
  unfold gone State.dropPending at he
  rw [if_neg (by rw [setOwed_link, setEntry_link, h]; decide)] at he
  simp only [State.withdraw, withdrawIn, setOwed_link, setEntry_link, h, Bool.false_eq_true, if_false, List.mem_filter]
    at he
  simp [TxEntry.isFor, hf, TxFrame.kind, TxFrame.subject] at he

/-- Settles O21, by whether the EVICT names the node itself, a peer in the body, or another entry. -/
theorem evictRemovesThePeer : Obligations.EvictRemovesThePeer := by
  unfold Obligations.EvictRemovesThePeer
  intro s n x m hm hhead
  have hexec := exec_evict hm hhead
  refine ⟨?_, fun hx hin => ?_, fun hx hout => ?_⟩
  · rintro rfl
    have hleave : s.popped.evict s.own = s.popped.leave .isolated .evicted := if_pos rfl
    rw [hleave] at hexec
    exact ⟨_, hexec, hasLeft_of_popped (leave_hasLeft s s.popped .isolated .evicted),
      EngineBlocks.leave_keptOnLeaving s s.popped .isolated .evicted⟩
  · rw [evict_of_body (s := s.popped) hx hin] at hexec
    obtain ⟨hstraps, -, hmember, htable, -⟩ := outer_fields (gone_outer s.popped x)
    obtain ⟨htab, hmem⟩ := removeFor_replica (gone s.popped x) x .removedByYield
    have hunit : ((gone s.popped x).removeFor x .removedByYield).member =
        ((s.popped.setEntry x { s.entry x with state := .absent, silence := none }).setOwed x false).member :=
      hmem.trans hmember
    have hreplica : (finish s ((gone s.popped x).removeFor x .removedByYield)).table =
        ((gone s.popped x).removeRecord x).table := (finish_table _ _).trans htab
    have hentry (k : Node) : (finish s ((gone s.popped x).removeFor x .removedByYield)).entry k =
        (s.popped.setEntry x { s.entry x with state := .absent, silence := none }).entry k := by
      rw [entry_of_member ((finish_member _ _).trans hunit), setOwed_entry]
    refine ⟨_, hexec, ?_, ?_, ?_, ?_, ?_, ?_, ?_, ?_⟩
    · rw [hentry, setEntry_entry_self]
    · intro k hk
      rw [hentry, setEntry_entry_ne _ _ hk, popped_entry]
    · intro k
      rw [finish_member, hunit]
      exact setOwed_owed _ x k false
    · rw [hreplica, removeRecord_halt, htable]; rfl
    · rw [hreplica, removeRecord_claims, htable]; rfl
    · intro hline e he hf
      have hkind : ownTraffic e.frame.kind = false := by rw [hf]; rfl
      have hfollows := (removeFor_follows (gone s.popped x) x .removedByYield).trans (finish_follows s _)
      exact gone_tx (s := s.popped) hline (hfollows.mem_tx he hkind) hf
    · rw [finish_member, hunit]; exact hm
    · rw [hexec, hreplica, removeFor_peer (by unfold State.own; rw [hstraps]; exact hx)]
      have hgranted : (gone s.popped x).ownGranted = s.ownGranted := Motions.ownGranted_congr hstraps htable
      exact congrArg (fun u => Host.Outcome.next (finish s u)) (ite_ownGranted_congr hgranted _ _ _)
  · rw [hexec, evict_of_other (s := s.popped) hx hout]

/-! ## YIELD -/

/-- A MEMBER that finds a YIELD at the head of its queue. -/
theorem exec_yield {s : State} {n : Node} {m : BitVec 8} (hm : s.member.mstate = .member)
    (hhead : s.headIs .yield n [] m) :
    exec .yield s = .next (finish s (s.popped.removeFor n .removedByYield)) := by
  have hpopped : s.popped.isMember = true := beq_iff_eq.2 hm
  change execYield s = _
  simp only [execYield, process_head hhead, State.takeYield, readEmptyPayload, hpopped, if_true]

/-- Without a record to remove, nothing is to do. -/
theorem removeFor_of_no_record {s : State} {n : Node} (h : ∀ r ∈ s.table.claims, r.claimant ≠ n) (v : Verdict) :
    s.removeFor n v = s := by
  have hnone : hasClaim s.table.claims n = false := by
    rw [← Bool.not_eq_true, ClaimTable.hasClaim_iff]
    rintro ⟨r, hr, hn⟩
    exact h r hr hn
  have hrecord : s.removeRecord n = s := by
    unfold State.removeRecord
    rw [hnone]; rfl
  unfold State.removeFor
  rw [hrecord, hnone]
  dsimp only
  rw [Bool.not_and_self]
  split <;> rfl

/-- Settles O22, by whether there is a record of the sender, and whether the sender is the node itself. -/
theorem yieldRemovesTheRecord : Obligations.YieldRemovesTheRecord := by
  unfold Obligations.YieldRemovesTheRecord
  intro s n m hm hhead u
  have hexec := exec_yield hm hhead
  refine ⟨fun hnone => ?_, fun hsome => ?_⟩
  · rw [hexec, removeFor_of_no_record (s := s.popped) hnone]
  have hclaims : (s.popped.removeRecord n).table =
      { claims := evalGrants (s.table.claims.filter fun r => r.claimant != n), halt := s.table.halt } := by
    rw [removeRecord_table, (ClaimTable.hasClaim_iff s.popped.table.claims n).2 hsome]; rfl
  have hu : ({ s.popped with table := (s.popped.removeRecord n).table } : State) = u := by rw [hclaims]
  have hpeer (hn : n ≠ s.own) : s.popped.removeFor n .removedByYield =
      if s.ownGranted = false ∧ u.ownGranted = true then u.takeVerdict .granted else u := by
    have h := removeFor_peer (s := s.popped) hn .removedByYield
    rw [hu] at h
    exact h
  refine ⟨?_, fun hn hold hnew => ?_, fun hn hsame => ?_⟩
  · rintro rfl
    have h := removeFor_own s.popped .removedByYield
    extract_lets v at h
    have hv : v = u := hu
    rw [hv, if_pos ((ClaimTable.hasClaim_iff s.popped.table.claims s.popped.own).2 hsome)] at h
    exact hexec.trans (congrArg (fun t => Host.Outcome.next (finish s t)) h)
  · rw [hexec, hpeer hn, if_pos ⟨hold, hnew⟩]
  · rw [hexec, hpeer hn, if_neg]
    rintro ⟨hold, hnew⟩
    rcases hsame with h | h
    · rw [h] at hold; cases hold
    · rw [h] at hnew; cases hnew

end Sys2Proof.Removal
end

section
/-! The entry into MEMBER (R33, R152), what finishing an event leaves of it, and the snapshot duty (R30): the lemmas of
O26 and O27. -/

namespace Sys2Proof.Entering

open Sys2Proof.Machine Sys2Proof.Laws Sys2Proof.FrameProcessing Sys2Proof.BlockLaws Sys2Proof.HaltEffects

/-! ## What finishing leaves -/

/-- No update that follows an event touches the posture period (R82). -/
theorem finish_period (old s : State) : (finish old s).post.period = s.post.period := by
  have hqueue (t : State) (f : TxFrame) (_ : ownTraffic f.kind = true) (h : t.post.period = s.post.period) :
      (t.queue f).post.period = s.post.period := by rw [queue_eq]; exact h
  exact (finish_follows old s).keeps (P := fun t => t.post.period = s.post.period) rfl (fun _ _ _ h => h)
    (fun _ _ _ h => h) (fun _ h => h) (fun _ h => h) (fun _ _ h => h) (fun _ _ h => h) hqueue (fun _ _ _ _ h => h)
    (fun _ _ h => h) (fun _ _ _ _ _ h => h)

theorem finish_entry (old s : State) (n : Node) : (finish old s).entry n = s.entry n :=
  entry_of_member (finish_member old s) n

/-- A pending POSTURE, HALT or YIELD stays pending. -/
theorem finish_pends {old s : State} {f : TxFrame} (h : s.pends f) (hc : f.kind ≠ .claim) (hs : f.kind ≠ .snapshot) :
    (finish old s).pends f := (finish_follows old s).pends hc hs h

/-- No HALT and no JOIN enters the transmit list as an event is finished. -/
theorem mem_of_finish {old s : State} {e : TxEntry} (h : e ∈ (finish old s).link.tx)
    (hk : ownTraffic e.frame.kind = false) : e ∈ s.link.tx := (finish_follows old s).mem_tx h hk

/-! ## Entering MEMBER -/

/-- The node as it enters, before it queues (R33). -/
def entered (s : State) : State :=
  let t : State :=
    { s with
      member := { s.member with mstate := .member, listenTimer := none, joinTimer := none }
      post := { s.post with period := some posturePeriodMs } }
  (t.setEntry t.own { t.entry t.own with state := .member, silence := none }).withdraw .join none

/-- A node with a stop pressed and the latch clear enters with a HALT queued behind its POSTURE (R33, R152). -/
theorem enterMember_eq (s : State) : s.enterMember =
    if s.stopPressed = true ∧ s.table.halt.latch = none then
      ((entered s).queue .posture).queue (.halt s.heldStopSource)
    else (entered s).queue .posture := by
  have hq : (entered s).queue .posture = { entered s with link := ((entered s).queue .posture).link } := queue_eq _ _
  have hcond : (((entered s).queue .posture).stopPressed && !((entered s).queue .posture).latched) = true ↔
      s.stopPressed = true ∧ s.table.halt.latch = none := by
    rw [hq]
    simp only [Bool.and_eq_true, Bool.not_eq_true', State.latched, Option.isSome_eq_false_iff, Option.isNone_iff_eq_none]
    rfl
  have hsource : ((entered s).queue .posture).heldStopSource = s.heldStopSource := by rw [hq]; rfl
  by_cases h : s.stopPressed = true ∧ s.table.halt.latch = none
  · rw [if_pos h, ← hsource]
    exact if_pos (hcond.2 h)
  · rw [if_neg h]
    exact if_neg (mt hcond.1 h)

theorem entered_tx (s : State) : (entered s).link.tx = (s.withdraw .join none).link.tx := rfl

theorem entered_mayQueue (s : State) : (entered s).mayQueue = true := rfl

/-- Entering changes the member unit, the posture marks and the transmit list alone. -/
theorem enterMember_frame (s : State) : s.enterMember =
    { s with link := s.enterMember.link, member := (entered s).member, post := (entered s).post } := by
  have hp : (entered s).queue .posture = { entered s with link := ((entered s).queue .posture).link } := queue_eq _ _
  rw [enterMember_eq]
  split
  · have hh := queue_eq ((entered s).queue .posture) (.halt s.heldStopSource)
    rw [hh]
    generalize (((entered s).queue .posture).queue (.halt s.heldStopSource)).link = l
    rw [hp]
    rfl
  · rw [hp]
    rfl

theorem enterMember_mstate (s : State) : s.enterMember.member.mstate = .member := by rw [enterMember_frame]; rfl

theorem enterMember_member (s : State) : s.enterMember.member = (entered s).member := by rw [enterMember_frame]

theorem enterMember_table (s : State) : s.enterMember.table = s.table := by rw [enterMember_frame]

theorem enterMember_inner (s : State) : inner s.enterMember = inner s := by rw [enterMember_frame]; rfl

theorem enterMember_period (s : State) : s.enterMember.post.period = some 50 := by rw [enterMember_frame]; rfl

/-- The roster of a node that enters: its own entry becomes MEMBER, without a timer. -/
theorem enterMember_entry (s : State) (n : Node) :
    s.enterMember.entry n = if n = s.own then { s.entry s.own with state := .member, silence := none } else s.entry n := by
  rw [entry_of_member (enterMember_member s)]
  exact setEntry_entry _ _ _ _

/-- A node enters with a POSTURE pending (R33). -/
theorem enterMember_pends_posture (s : State) : s.enterMember.pends .posture := by
  rw [enterMember_eq]
  split
  · exact pends_queue (pends_queue_self _ (entered_mayQueue s)) (.inr (nofun : Kind.posture ≠ .halt))
  · exact pends_queue_self _ (entered_mayQueue s)

/-- A stop pressed as the node enters queues HALT, unless the latch is set (R152). -/
theorem enterMember_pends_halt {s : State} (hp : s.stopPressed = true) (hl : s.table.halt.latch = none) :
    s.enterMember.pends (.halt s.heldStopSource) := by
  rw [enterMember_eq, if_pos ⟨hp, hl⟩]
  refine pends_queue_self _ ?_
  rw [queue_eq]
  rfl

/-- A frame that is no JOIN stays pending, if it is none of those the node enters with. -/
theorem enterMember_pends {s : State} {f : TxFrame} (h : s.pends f) (hjoin : f.kind ≠ .join) (hposture : f.kind ≠ .posture)
    (hhalt : f.kind ≠ .halt) : s.enterMember.pends f := by
  have hent : (entered s).pends f := pends_withdraw (k := .join) h hjoin
  rw [enterMember_eq]
  split
  · exact pends_queue (pends_queue hent (.inr hposture)) (.inr hhalt)
  · exact pends_queue hent (.inr hposture)

/-- What is pending as a node has entered, and neither POSTURE nor HALT, was pending before. -/
theorem mem_enterMember {s : State} {e : TxEntry} (h : e ∈ s.enterMember.link.tx) (hposture : e.frame.kind ≠ .posture)
    (hhalt : e.frame.kind ≠ .halt) : e ∈ (s.withdraw .join none).link.tx := by
  rw [enterMember_eq] at h
  split at h
  · exact entered_tx s ▸ mem_queue_tx (mem_queue_tx h hhalt) hposture
  · exact entered_tx s ▸ mem_queue_tx h hposture

/-- The node's JOIN is withdrawn as it enters (R33, assumption 7). -/
theorem enterMember_join {s : State} {e : TxEntry} (h : e ∈ s.enterMember.link.tx) (hf : e.frame = .join) :
    s.link.line.isSending .join none = true ∧ e.withdrawn = true := by
  have hk : e.frame.kind = .join := by rw [hf]; rfl
  exact withdrawn_of_mem (mem_enterMember h (by simp [hk]) (by simp [hk])) (isFor_of_kind hk (by decide))

/-- Without a stop pressed, or with the latch set, entering queues no HALT (R152). -/
theorem enterMember_halt {s : State} (hno : s.stopPressed = false ∨ s.table.halt.latch ≠ none) {e : TxEntry}
    (h : e ∈ s.enterMember.link.tx) (hk : e.frame.kind = .halt) : e ∈ s.link.tx := by
  have hcond : ¬(s.stopPressed = true ∧ s.table.halt.latch = none) := by
    rintro ⟨hp, hl⟩
    rcases hno with h | h
    · rw [hp] at h; cases h
    · exact h hl
  rw [enterMember_eq, if_neg hcond] at h
  have hent : e ∈ (entered s).link.tx := mem_queue_tx h (by rw [hk]; decide)
  exact mem_withdraw_tx (k := .join) (entered_tx s ▸ hent) (by rw [hk]; decide)

/-! ## The snapshot duty -/

/-- The duty of R30: the lowest MEMBER owes a snapshot. -/
theorem snapshotDuty_iff (s : State) : s.snapshotDuty = true ↔ s.member.mstate = .member ∧
    (s.entry s.own).state = .member ∧ (∀ n, (s.entry n).state = .member → s.own ≤ n) ∧
    ∃ n : Fin 8, s.member.owed[n] = true := by
  have howes : s.owes = true ↔ ∃ n : Fin 8, s.member.owed[n] = true := by
    rw [State.owes, List.any_eq_true]
    exact ⟨fun ⟨n, _, h⟩ => ⟨n, h⟩, fun ⟨n, h⟩ => ⟨n, mem_allNodes n, h⟩⟩
  have hlowest : s.members.head? = some s.own ↔ (s.entry s.own).state = .member ∧
      ∀ n, (s.entry n).state = .member → s.own ≤ n := by
    rw [State.members, List.head?_filter, find_allNodes, beq_iff_eq]
    refine and_congr_right fun _ => forall_congr' fun n => ?_
    rw [beq_eq_false_iff_ne, ← not_le]
    tauto
  simp only [State.snapshotDuty, Bool.and_eq_true, beq_iff_eq, hlowest, howes, and_assoc]

theorem kind_snapshot {f : TxFrame} (h : f.kind = .snapshot) : f = .snapshot := by
  cases f with
  | snapshot => rfl
  | _ => nomatch h

theorem snapshotPending_iff (s : State) : s.snapshotPending = true ↔ s.pends .snapshot := by
  rw [State.snapshotPending, List.any_eq_true]
  refine exists_congr fun e => and_congr_right fun _ => ?_
  rw [Bool.and_eq_true, beq_iff_eq, Bool.not_eq_true']
  exact and_congr_left fun _ => ⟨kind_snapshot, fun h => by rw [h]; rfl⟩

/-- Behind its pass the SNAPSHOT is pending exactly while it is due (R30). -/
theorem snapshotPass_pends (s : State) : (snapshotPass s).pends .snapshot ↔ s.snapshotDuty = true := by
  unfold snapshotPass
  split
  · next h => rw [h, snapshotPending_iff]
  · split
    · next hduty =>
      have hmay : s.mayQueue = true := (mayQueue_iff s).2 (.inr ((snapshotDuty_iff s).1 hduty).1)
      exact iff_of_true (pends_queue_self _ hmay) hduty
    · next hduty =>
      refine iff_of_false ?_ hduty
      rintro ⟨e, he, hf, hw⟩
      have hmark := (withdrawn_of_mem he (isFor_of_kind (k := .snapshot) (by rw [hf]; rfl) (by decide))).2
      rw [hw] at hmark
      cases hmark

/-- A note leaves a pending SNAPSHOT, and queues none. -/
theorem noteChange_pends_snapshot (old s : State) : (State.noteChange old s).pends .snapshot ↔ s.pends .snapshot := by
  have hqueue : (s.queue .posture).pends .snapshot ↔ s.pends .snapshot := by
    refine ⟨fun ⟨e, he, hf, hw⟩ => ⟨e, mem_queue_tx he (by rw [hf]; decide), hf, hw⟩, fun h => ?_⟩
    exact pends_queue h (.inr (by decide))
  rcases noteChange_cases old s with h | ⟨_, h | h | h⟩ <;> rw [h]
  · exact hqueue
  · exact Iff.rfl
  · exact hqueue

/-- The passes behind the first leave the link. -/
theorem later_pass_link : ∀ f ∈ passes.tail, ∀ s, (f s).link = s.link := by
  have hdemand (g : Sys2Proof.Group) (s : State) : (demandPass g s).link = s.link := by unfold demandPass; split <;> rfl
  have hlamp (s : State) : (lampTestPass s).link = s.link := by unfold lampTestPass; split <;> rfl
  have hcab (s : State) : (cabPass s).link = s.link := by unfold cabPass; split <;> rfl
  have hok (s : State) : (nodeOkPass s).link = s.link := by unfold nodeOkPass; split <;> rfl
  have hbelieve (s : State) : (believePass s).link = s.link := by unfold believePass; split <;> rfl
  have hplaus (s : State) : (plausPass s).link = s.link := by unfold plausPass; split <;> rfl
  intro f hf
  simp only [passes, List.tail_cons, List.mem_cons, List.not_mem_nil, or_false] at hf
  rcases hf with rfl | rfl | rfl | rfl | rfl | rfl | rfl | rfl | rfl | rfl | rfl
  exacts [fun _ => rfl, hdemand _, hdemand _, hdemand _, hdemand _, hlamp, hcab, hok, hbelieve, fun _ => rfl, hplaus]

theorem snapshotDuty_congr {s t : State} (h : outer t = outer s) : t.snapshotDuty = s.snapshotDuty := by
  obtain ⟨hstraps, -, hmember, -⟩ := outer_fields h
  simp only [State.snapshotDuty, State.own, State.owes, State.members, entry_of_member hmember, hstraps, hmember]

theorem follow_eq (s : State) : follow s =
    passes.tail.foldl (fun t f => State.noteChange t (f t)) (State.noteChange s (snapshotPass s)) := by
  have hcons : passes = snapshotPass :: passes.tail := rfl
  unfold follow
  rw [hcons, List.foldl_cons, List.tail_cons]

/-- Behind the passes the SNAPSHOT is pending exactly while it is due. -/
theorem follow_pends_snapshot (s : State) : (follow s).pends .snapshot ↔ (follow s).snapshotDuty = true := by
  have hpasses (f) (hf : f ∈ passes.tail) : f ∈ passes := List.mem_of_mem_tail hf
  rw [follow_eq]
  have hfirst : (State.noteChange s (snapshotPass s)).pends .snapshot ↔
      (State.noteChange s (snapshotPass s)).snapshotDuty = true := by
    rw [noteChange_pends_snapshot, snapshotPass_pends, snapshotDuty_congr (noteChange_outer _ _),
      snapshotDuty_congr (passes_outer snapshotPass (by simp [passes]) _)]
  refine foldl_keeps (P := fun t => t.pends .snapshot ↔ t.snapshotDuty = true) ?_ passes.tail ?_ _ hfirst
  · intro old t h
    rw [noteChange_pends_snapshot, snapshotDuty_congr (noteChange_outer _ _)]
    exact h
  · intro f hf t h
    rw [snapshotDuty_congr (passes_outer f (hpasses f hf) t), ← h, State.pends, later_pass_link f hf]
    rfl

/-- After every event the SNAPSHOT is pending exactly while it is due (R30). -/
theorem finish_pends_snapshot (old s : State) :
    (finish old s).pends .snapshot ↔ (finish old s).snapshotDuty = true := by
  unfold finish
  exact follow_pends_snapshot _

end Sys2Proof.Entering
end

section
/-! O26: the SNAPSHOT, which the lowest MEMBER owes (R30, R31), on a peer and on its subject (R32, R33, R41). -/

namespace Sys2Proof.Snapshot

open Sys2Proof.Machine Sys2Proof.Laws Sys2Proof.FrameProcessing Sys2Proof.BlockLaws Sys2Proof.HaltEffects
  Sys2Proof.Entering

/-! ## The frame -/

/-- The payload of the SNAPSHOT due, to the lowest node owed one (R31). -/
theorem payloadOf_snapshot {s : State} {x : Node} {fit : Fin 8} (hx : s.member.owed[x] = true)
    (hlow : ∀ n : Fin 8, s.member.owed[n] = true → x ≤ n) (hfit : s.member.bodyFit = some fit) :
    s.payloadOf .snapshot = SnapMsg.payload
      { subject := x, fit := fit, take := s.member.takeCount, halt := s.table.halt
        roster := Vector.ofFn fun i : Fin 8 => ((s.entry i).state, (s.entry i).role), claims := s.table.claims } := by
  have hsubject : s.owedSubject = x := by
    have hfind : allNodes.find? (fun n => s.member.owed[n]) = some x := by
      refine (find_allNodes _ x).2 ⟨hx, fun k hk => ?_⟩
      rw [← Bool.not_eq_true]
      exact fun h => absurd hk (not_lt.2 (hlow k h))
    rw [State.owedSubject, hfind]; rfl
  show s.snapMsg.payload = _
  rw [State.snapMsg, hsubject, hfit]; rfl

/-- The processing of a well-formed SNAPSHOT at the head (R32). -/
theorem exec_snapshot {s : State} {n : Node} {p : List Byte} {m : BitVec 8} {w : SnapMsg}
    (hhead : s.headIs .snapshot n p m) (hread : readSnapPayload p = some w) :
    exec .snapshot s = .next (finish s
      (if w.subject = s.own then (if s.isMember || s.member.mstate == .joinWait then s.popped.snapOwn w else s.popped)
       else if s.isMember then s.popped.snapOther w.subject else s.popped)) := by
  change execSnapshot s = _
  simp only [execSnapshot, process_head hhead, State.takeSnapshot, hread]
  rfl

/-! ## On a peer -/

/-- A SNAPSHOT for another node (R32): its entry becomes MEMBER if it was JOINING, and it is owed no more. -/
theorem snapOther_eq (s : State) (x : Node) :
    s.snapOther x = State.setOwed (if (s.entry x).state = .joining then
      s.setEntry x { s.toMember x (s.entry x) with heard := true } else s) x false := rfl

theorem snapOther_entry (s : State) (x k : Node) :
    (s.snapOther x).entry k = if k = x ∧ (s.entry x).state = .joining then
      { s.toMember x (s.entry x) with heard := true } else s.entry k := by
  rw [snapOther_eq, setOwed_entry]
  by_cases hj : (s.entry x).state = .joining
  · rw [if_pos hj, setEntry_entry]
    simp only [hj, and_true]
  · rw [if_neg hj, if_neg fun h => hj h.2]

/-- What a SNAPSHOT for another node leaves (R32). -/
theorem snapOther_units (s : State) (x : Node) :
    (s.snapOther x).table = s.table ∧ (s.snapOther x).member.bodyFit = s.member.bodyFit ∧
      (s.snapOther x).member.takeCount = s.member.takeCount ∧
      ∀ k : Fin 8, (s.snapOther x).member.owed[k] = if k = x then false else s.member.owed[k] := by
  rw [snapOther_eq]
  have howed (t : State) (h : t.member.owed = s.member.owed) (k : Fin 8) :
      (t.setOwed x false).member.owed[k] = if k = x then false else s.member.owed[k] := by
    rw [setOwed_owed, h]
  split
  · exact ⟨rfl, rfl, rfl, howed _ rfl⟩
  · exact ⟨rfl, rfl, rfl, howed _ rfl⟩

/-! ## On its subject -/

theorem resync_outer (s : State) : outer s.resync = outer s := by
  unfold State.resync
  split
  · simp
  · rfl

theorem resync_of_member {s : State} (h : s.member.mstate = .member) : s.resync = (s.endStack .resync).queueYield :=
  if_pos (isMember_of h)

theorem resync_of_not_member {s : State} (h : s.member.mstate ≠ .member) : s.resync = s :=
  if_neg (mt (isMember_iff s).1 h)

/-- The node with the replica of its own SNAPSHOT taken over (R32). -/
def adopted (s : State) (w : SnapMsg) : State := s.resync.adopt w

/-- The replica taken over (R32): the carried roster over the node's own marks, the carried table evaluated. -/
theorem adopted_units (s : State) (w : SnapMsg) :
    (adopted s w).table = { claims := evalGrants w.claims, halt := w.halt } ∧
      (adopted s w).member.takeCount = w.take + 1 + s.tableBehind ∧ (adopted s w).member.bodyFit = some w.fit ∧
      (∀ k : Fin 8, (adopted s w).member.owed[k] = (k != s.own && (w.roster[k]).1 == .joining)) ∧
      ∀ k, (adopted s w).entry k = (s.entry k).bySnap (k == s.own) w.roster[k] := by
  obtain ⟨hstraps, -, hmember, -, -, -, -, -, hrx, -⟩ := outer_fields (resync_outer s)
  have hown : s.resync.own = s.own := by rw [State.own, hstraps, State.own]
  have hbehind : s.resync.tableBehind = s.tableBehind := by rw [State.tableBehind, hrx, State.tableBehind]
  refine ⟨rfl, ?_, rfl, fun k => ?_, fun k => ?_⟩
  · show w.take + 1 + s.resync.tableBehind = _
    rw [hbehind]
  · show (Vector.ofFn fun i : Fin 8 => i != s.resync.own && (w.roster[i]).1 == .joining)[k] = _
    simp only [hown, Fin.getElem_fin, Vector.getElem_ofFn]
  · show (Vector.ofFn fun i : Fin 8 => (s.resync.entry i).bySnap (i == s.resync.own) w.roster[i])[k] = _
    simp only [hown, Fin.getElem_fin, Vector.getElem_ofFn, entry_of_member hmember]

/-- An entry under the node's own SNAPSHOT, mark by mark (R32, R79). -/
theorem bySnap_eq (e : Entry) (isOwn : Bool) (c : EState × Option RoleSide) :
    e.bySnap isOwn c =
      { state := c.1, role := c.2, last := e.last, heard := e.heard || (c.1 == .member && !isOwn), agree := true
        fresh := false, silence := if (c.1 == .member && !isOwn) = true then some 150 else none } := rfl

/-- The roster of a subject that has become MEMBER (R32, R33). -/
theorem enterMember_adopted_entry (s : State) (w : SnapMsg) (k : Node) :
    ((adopted s w).enterMember.entry k).state = (if k = s.own then .member else (w.roster[k]).1) ∧
      ((adopted s w).enterMember.entry k).role = (w.roster[k]).2 ∧
      ((adopted s w).enterMember.entry k).agree = true ∧ ((adopted s w).enterMember.entry k).fresh = false ∧
      ((adopted s w).enterMember.entry k).silence =
        (if k ≠ s.own ∧ (w.roster[k]).1 = .member then some 150 else none) ∧
      ((adopted s w).enterMember.entry k).heard =
        ((s.entry k).heard || (k != s.own && (w.roster[k]).1 == .member)) ∧
      ((adopted s w).enterMember.entry k).last = (s.entry k).last := by
  obtain ⟨hstraps, -⟩ := outer_fields (resync_outer s)
  have hown : (adopted s w).own = s.own := congrArg Straps.node hstraps
  obtain ⟨-, -, -, -, hentry⟩ := adopted_units s w
  rw [enterMember_entry, hown, hentry, hentry, bySnap_eq, bySnap_eq]
  by_cases hk : k = s.own
  · subst hk
    simp
  · simp [hk, Bool.and_comm, bne]

/-! ### A subject that believed itself MEMBER -/

/-- Runs, records and channels of a MEMBER that takes its own SNAPSHOT (R32). -/
theorem resync_member {s : State} (h : s.member.mstate = .member) :
    s.resync.runs = { run := none, counter := s.runs.counter, claimWait := none, fn := none } ∧
      s.resync.steps = StepUnit.none ∧ s.resync.log = (s.runRecordsEnded .resync).log ∧
      ∀ x, s.resync.chans.get x = (s.chans.get x).after .relieve := by
  have hinner : inner (s.endStack .resync).queueYield = inner (s.endStack .resync) := queue_inner _ _
  obtain ⟨hruns, hsteps, hchans, hlog⟩ := inner_fields hinner
  obtain ⟨hr, hst⟩ := endStack_runs s .resync
  rw [resync_of_member h]
  refine ⟨hruns.trans hr, hsteps.trans hst, hlog.trans (endStack_log s _), fun x => ?_⟩
  rw [hchans, endStack_chans]

theorem endStack_mstate (s : State) (o : RunOutcome) : (s.endStack o).member = s.member :=
  (outer_fields (endStack_outer s o)).2.2.1

/-- A MEMBER that takes its own SNAPSHOT yields (R32). -/
theorem resync_pends_yield {s : State} (h : s.member.mstate = .member) : s.resync.pends .yield := by
  rw [resync_of_member h]
  refine pends_queue_self _ ((mayQueue_iff _).2 (.inr ?_))
  rw [withdraw_member, endStack_mstate, h]

/-- A MEMBER that takes its own SNAPSHOT withdraws its CLAIM (R32). -/
theorem resync_claims {s : State} (h : s.member.mstate = .member) {e : TxEntry} (he : e ∈ s.resync.link.tx)
    (hk : e.frame.kind = .claim) : s.link.line.isSending .claim none = true ∧ e.withdrawn = true := by
  rw [resync_of_member h] at he
  obtain ⟨-, -, -, -, -, -, -, -, -, hline, -⟩ := outer_fields (endStack_outer s .resync)
  have hmem : e ∈ ((s.endStack .resync).withdraw .claim none).link.tx := mem_queue_tx he (by rw [hk]; decide)
  have hw := withdrawn_of_mem hmem (isFor_of_kind hk (by decide))
  rw [hline] at hw
  exact hw

/-- No HALT enters the transmit list, and none of the node's JOINs, as a subject takes its SNAPSHOT. -/
theorem mem_resync {s : State} {e : TxEntry} (he : e ∈ s.resync.link.tx) (hy : e.frame.kind ≠ .yield)
    (hc : e.frame.kind ≠ .claim) : e ∈ s.link.tx := by
  unfold State.resync at he
  split at he
  · have h1 : e ∈ ((s.endStack .resync).withdraw .claim none).link.tx := mem_queue_tx he hy
    have h2 := mem_withdraw_tx h1 hc
    rw [endStack_link] at h2
    exact mem_withdraw_tx h2 hc
  · exact he

/-- What a subject that is taken in becomes (R32, R33). -/
theorem snapOwn_joining {s : State} {w : SnapMsg} (h : (w.roster[s.own]).1 = .joining) :
    s.snapOwn w = (adopted s w).enterMember := by
  unfold State.snapOwn; rw [h]; rfl

/-- What a subject that is barred becomes (R32, R41). -/
theorem snapOwn_barred {s : State} {w : SnapMsg} (h : (w.roster[s.own]).1 = .barred) :
    s.snapOwn w = (adopted s w).leave .barred (if w.fit = s.straps.fit then .roleLimit else .fitting) := by
  unfold State.snapOwn; rw [h]; rfl

theorem snapOwn_other {s : State} {w : SnapMsg} (hj : (w.roster[s.own]).1 ≠ .joining)
    (hb : (w.roster[s.own]).1 ≠ .barred) : s.snapOwn w = s := by
  unfold State.snapOwn
  split
  · next h => exact (hj h).elim
  · next h => exact (hb h).elim
  all_goals rfl

/-! ### A departure, from what it reads -/

/-- The records of a stack that ends depend on runs, log, straps and lines alone. -/
theorem runRecordsEnded_log_congr {s t : State} (hruns : t.runs.run = s.runs.run) (hlog : t.log = s.log)
    (hstraps : t.straps = s.straps) (hlines : t.lines = s.lines) (o : RunOutcome) (r : LogRec) :
    ((t.runRecordsEnded o).writeRec r).log = ((s.runRecordsEnded o).writeRec r).log := by
  have hheight (m : Option Manoeuvre) (i : Option Nat) : t.heightFor m i = s.heightFor m i := by
    simp only [State.heightFor, hstraps, hlines]
  unfold State.runRecordsEnded
  rw [hruns]
  cases s.runs.run with
  | none => simp only [State.writeRec, hlog]
  | some x => simp only [State.writeRec, State.closeRec, State.changeOpen, hlog, hheight]

/-- Two nodes alike in what a departure reads have left alike. -/
theorem hasLeft_congr {s s' t : State} {d : Departure} {c : Cause} (hcount : s'.member.takeCount = s.member.takeCount)
    (hstraps : s'.straps = s.straps) (hlines : s'.lines = s.lines) (hport : s'.port = s.port)
    (hcounter : s'.runs.counter = s.runs.counter) (hrun : s'.runs.run = s.runs.run) (hlog : s'.log = s.log)
    (hchans : ∀ x, (s'.chans.get x).state = .faulted ↔ (s.chans.get x).state = .faulted) (h : hasLeft s t d c) :
    hasLeft s' t d c := by
  have hrec : s'.departureRec d c = s.departureRec d c := by simp only [State.departureRec, hcounter, hlog]
  unfold hasLeft at h ⊢
  rw [runRecordsEnded_log_congr hrun hlog hstraps hlines, hrec, hcount, hport, hlines, hstraps]
  simp only [hchans, State.input, hlines]
  exact h

theorem runRecordsEnded_popped (s : State) (o : RunOutcome) :
    (s.popped.runRecordsEnded o).log = (s.runRecordsEnded o).log := by
  unfold State.runRecordsEnded
  cases hr : s.runs.run with
  | none => rw [show s.popped.runs.run = none from hr]; rfl
  | some r => rw [show s.popped.runs.run = some r from hr]; rfl

/-! ## The obligation -/

section

variable {s : State} {w : SnapMsg}

/-- The stop loops and the latch as the subject enters (R33, R152). -/
theorem adopted_stop (s : State) (w : SnapMsg) :
    (adopted s w).stopPressed = s.stopPressed ∧ (adopted s w).heldStopSource = s.heldStopSource := by
  obtain ⟨hstraps, -, -, -, hlines, -⟩ := outer_fields (resync_outer s)
  have hinput (i : Fin 16) : (adopted s w).input i = s.input i :=
    congrArg (fun l : LineUnit => l.inputs[i].active) hlines
  constructor
  · rw [State.stopPressed, hinput, hinput, show (adopted s w).straps = s.straps from hstraps, State.stopPressed]
  · rw [State.heldStopSource, hinput, State.heldStopSource]

/-- A MEMBER that is taken in anew has ended its run, withdrawn its CLAIM and yielded (R32). -/
theorem resynced (hm : s.member.mstate = .member) (old : State) :
    (finish old (adopted s w).enterMember).runs.run = none ∧
      (finish old (adopted s w).enterMember).steps.cur = none ∧
      (finish old (adopted s w).enterMember).pends .yield ∧
      (finish old (adopted s w).enterMember).log = (s.runRecordsEnded .resync).log ∧
      (∀ e ∈ (finish old (adopted s w).enterMember).link.tx, e.frame.kind = .claim →
        s.link.line.isSending .claim none = true ∧ e.withdrawn = true) ∧
      ∀ x, ((finish old (adopted s w).enterMember).chans.get x).state.letDown = true ∧
        (((finish old (adopted s w).enterMember).chans.get x).state = .faulted ↔
          (s.chans.get x).state = .faulted) := by
  obtain ⟨hruns, hsteps, hlog, hchans⟩ := resync_member hm
  obtain ⟨eruns, esteps, echans, elog⟩ := inner_fields (enterMember_inner (adopted s w))
  have hrun : (adopted s w).enterMember.runs.run = none := by
    rw [eruns]; exact congrArg RunUnit.run hruns
  obtain ⟨truns, tsteps, tchans, tlog⟩ := inner_fields (finish_inner_of_no_run (old := old) hrun)
  have hyield : (adopted s w).pends .yield := resync_pends_yield hm
  have hkept : (adopted s w).log = s.resync.log := rfl
  have hrecords : (finish old (adopted s w).enterMember).log = (s.runRecordsEnded .resync).log := by
    rw [tlog, elog, hkept, hlog]
  refine ⟨by rw [truns]; exact hrun, ?_, ?_, hrecords, fun e he hk => ?_, fun x => ?_⟩
  · rw [tsteps, esteps]
    exact congrArg StepUnit.cur hsteps
  · exact finish_pends (enterMember_pends hyield (by decide) (by decide) (by decide)) (by decide) (by decide)
  · have h1 : e ∈ (adopted s w).enterMember.link.tx :=
      mem_finish_tx (old := old) hrun (by rw [hk]; nofun) (by rw [hk]; nofun) he
    have h2 := mem_enterMember h1 (by rw [hk]; decide) (by rw [hk]; decide)
    exact resync_claims hm (mem_withdraw_tx (k := .join) h2 (by rw [hk]; decide)) hk
  · have hget : (finish old (adopted s w).enterMember).chans.get x = (s.chans.get x).after .relieve := by
      rw [tchans, echans]; exact hchans x
    rw [hget]
    exact after_relieve _

/-- A subject found BARRED has left, and one that believed itself MEMBER has ended its run before (R32, R41). -/
theorem barred_hasLeft (s old : State) (w : SnapMsg) (count : BitVec 8) (hcount : count = w.take + 1 + s.popped.tableBehind)
    (c : Cause) :
    let u : State := { s with member := { s.member with takeCount := count } }
    let v : State :=
      if s.member.mstate = .member then
        { u with runs := { s.runs with run := none }, log := (s.runRecordsEnded .resync).log }
      else u
    hasLeft v (finish old ((adopted s.popped w).leave .barred c)) .barred c := by
  intro u v
  obtain ⟨hstraps, -, -, -, hlines, hport, -⟩ := outer_fields (resync_outer s.popped)
  obtain ⟨-, htake, -⟩ := adopted_units s.popped w
  have htake' := hcount.trans htake.symm
  have hcounter : s.popped.resync.runs.counter = s.runs.counter := by
    unfold State.resync
    split
    · rw [show ((s.popped.endStack .resync).queueYield).runs = (s.popped.endStack .resync).runs from
        (inner_fields (queue_inner _ _)).1, (endStack_runs _ _).1]
      rfl
    · rfl
  by_cases hm : s.member.mstate = .member
  · obtain ⟨hruns, -, hlog, hchans⟩ := resync_member (s := s.popped) hm
    have hv : v = { u with runs := { s.runs with run := none }, log := (s.runRecordsEnded .resync).log } := if_pos hm
    rw [hv]
    refine hasLeft_congr (s := adopted s.popped w) htake' hstraps.symm hlines.symm hport.symm hcounter.symm ?_ ?_ ?_
      (leave_hasLeft old _ .barred c)
    · exact (congrArg RunUnit.run hruns).symm
    · exact ((show (adopted s.popped w).log = s.popped.resync.log from rfl).trans
        (hlog.trans (runRecordsEnded_popped s .resync))).symm
    · intro x
      show (s.chans.get x).state = .faulted ↔ (s.popped.resync.chans.get x).state = .faulted
      rw [hchans]
      exact (after_relieve _).2.symm
  · have hv : v = u := if_neg hm
    have hsame : s.popped.resync = s.popped := resync_of_not_member hm
    have hadopted : adopted s.popped w = s.popped.adopt w := congrArg (fun t => State.adopt t w) hsame
    rw [hv]
    refine hasLeft_congr (s := adopted s.popped w) htake' hstraps.symm hlines.symm hport.symm hcounter.symm ?_ ?_ ?_
      (leave_hasLeft old _ .barred c)
    · rw [hadopted]; rfl
    · rw [hadopted]; rfl
    · intro x; rw [hadopted]; exact Iff.rfl

end

/-- Settles O26: the duty by its pass, the frame on a peer by what it sets, and on its subject by the entry it finds of
itself. -/
theorem snapshotAdmitsItsSubject : Obligations.SnapshotAdmitsItsSubject := by
  unfold Obligations.SnapshotAdmitsItsSubject
  refine ⟨fun old s => ⟨(finish_pends_snapshot old s).trans (snapshotDuty_iff _), fun x fit => payloadOf_snapshot⟩, ?_⟩
  intro s n p m w hhead hread count
  have hexec := exec_snapshot hhead hread
  refine ⟨fun hm hx => ?_, fun hbody hown => ⟨fun hjoin => ?_, ?_, fun hj hb => ?_⟩⟩
  · rw [if_neg hx, if_pos (isMember_of hm)] at hexec
    obtain ⟨htable, hfit, hcount, howed⟩ := snapOther_units s.popped w.subject
    have hentry := snapOther_entry s.popped w.subject
    refine ⟨_, hexec, ?_, fun k hk => ?_, fun k => ?_, ?_, ?_, ?_⟩
    · rw [finish_entry, hentry]
      have hsilence : s.popped.silenceOf w.subject = some 150 := if_neg hx
      simp only [true_and, State.toMember, hsilence, popped_entry]
    · rw [finish_entry, hentry, if_neg fun h => hk h.1, popped_entry]
    · rw [finish_member]; exact howed k
    · rw [finish_table]; exact htable
    · rw [finish_member]; exact hfit
    · rw [finish_member]; exact hcount
  all_goals
    rw [if_pos hown, if_pos (show (s.isMember || s.member.mstate == .joinWait) = true by
      rw [Bool.or_eq_true, isMember_iff, beq_iff_eq]; exact hbody)] at hexec
  · rw [snapOwn_joining (s := s.popped) hjoin] at hexec
    obtain ⟨htable, hcount, hfit, howed, -⟩ := adopted_units s.popped w
    obtain ⟨hpress, hsource⟩ := adopted_stop s.popped w
    have hlatch : (adopted s.popped w).table.halt.latch = w.halt.latch := by rw [htable]
    have hmem := enterMember_member (adopted s.popped w)
    have hline : (adopted s.popped w).link.line = s.link.line := by
      obtain ⟨-, -, -, -, -, -, -, -, -, hline, -⟩ := outer_fields (resync_outer s.popped)
      exact hline
    refine ⟨_, hexec, ?_, ?_, ?_, ?_, ?_, ?_, ?_, ?_, ?_, ?_, ?_, ?_, ?_⟩
    · rw [finish_member, enterMember_mstate]
    · intro k
      rw [finish_entry]
      exact enterMember_adopted_entry s.popped w k
    · rw [finish_member, hmem]; exact hcount
    · rw [finish_member, hmem]; exact hfit
    · intro k; rw [finish_member, hmem]; exact howed k
    · rw [finish_table, enterMember_table, htable]
    · rw [finish_table, enterMember_table, htable]
    · rw [finish_period, enterMember_period]
    · exact finish_pends (enterMember_pends_posture _) (by decide) (by decide)
    · intro e he hf
      rw [← hline]
      exact enterMember_join (mem_of_finish he (by rw [hf]; rfl)) hf
    · intro hp hl
      have hpends := enterMember_pends_halt (s := adopted s.popped w) (hpress.trans hp) (hlatch.trans hl)
      rw [hsource] at hpends
      exact finish_pends hpends nofun nofun
    · intro hno e he hk
      have hent := enterMember_halt (s := adopted s.popped w)
        (hno.imp (fun h => hpress.trans h) fun h => by rw [hlatch]; exact h)
        (mem_of_finish he (by rw [hk]; rfl)) hk
      exact mem_resync (s := s.popped) hent (by rw [hk]; decide) (by rw [hk]; decide)
    · intro hm
      have h := resynced (s := s.popped) (w := w) hm s
      rw [runRecordsEnded_popped] at h
      exact h
  · intro hb u v
    rw [snapOwn_barred (s := s.popped) hb] at hexec
    exact ⟨_, hexec, barred_hasLeft s s w count rfl _⟩
  · rw [hexec, snapOwn_other (s := s.popped) hj hb]

end Sys2Proof.Snapshot
end

section
/-! O27 and O28: the JOIN that founds a body (R28), and the JOIN a MEMBER admits or bars (R29, R60). -/

namespace Sys2Proof.Joining

open Sys2Proof.Machine Sys2Proof.Laws Sys2Proof.FrameProcessing Sys2Proof.BlockLaws Sys2Proof.Entering Sys2Proof.Processing

/-- A JOIN at the head that is no duplicate of the node's own number (R28, R29). -/
theorem exec_join {s : State} {n : Node} {j : JoinMsg} {m : BitVec 8} (hhead : s.headIs .join n j.payload m)
    (hserial : n = s.own → j.serial = s.serial) (hin : s.isMember = true ∨ s.isProvisional = true) :
    exec .join s = .next (finish s (if s.isMember = true then s.popped.joinMember n j
      else s.popped.joinProvisional n j)) := by
  have hread : readJoinPayload j.payload = some j := (Payloads.readJoinPayload_eq_some _ j).2 rfl
  have htaken : (!(s.popped.isMember || s.popped.isProvisional)) = false := by
    rw [Bool.not_eq_false', Bool.or_eq_true]; exact hin
  have hnodup : ¬(n = s.popped.own ∧ j.serial ≠ s.popped.serial) := fun h => h.2 (hserial h.1)
  change execJoin s = _
  simp only [execJoin, process_head hhead, State.takeJoin, hread, htaken, if_neg hnodup]
  rfl

/-! ## Founding -/

theorem members_isEmpty_iff (s : State) : s.members.isEmpty = true ↔ ∀ k, (s.entry k).state ≠ .member := by
  rw [List.isEmpty_iff, State.members, List.filter_eq_nil_iff]
  simp only [beq_iff_eq]
  exact ⟨fun h k => h k (mem_allNodes k), fun h k _ => h k⟩

/-- The roster of a founded body: the joiner alone is MEMBER (R28). -/
theorem found_entry (s : State) (n : Node) (j : JoinMsg) (k : Node) :
    (s.found n j).entry k = if k = n then
      { s.toMember n (s.entry n) with role := some j.role, heard := (s.entry n).heard || n != s.own }
    else (s.entry k).leave .unknown none := by
  show (Vector.ofFn fun i : Fin 8 => _)[k] = _
  simp only [Fin.getElem_fin, Vector.getElem_ofFn]

theorem found_owed (s : State) (n : Node) (j : JoinMsg) (k : Fin 8) : (s.found n j).member.owed[k] = false := by
  show (Vector.replicate 8 false)[k] = false
  simp

/-- The node after a founding JOIN: the founder enters, another waits on (R28, R33). -/
def founded (s : State) (n : Node) (j : JoinMsg) : State :=
  if n = s.own then (s.found n j).enterMember else s.found n j

theorem joinProvisional_of_empty {s : State} (h : ∀ k, (s.entry k).state ≠ .member) (n : Node) (j : JoinMsg) :
    s.joinProvisional n j = founded s n j := if_pos ((members_isEmpty_iff s).2 h)

theorem joinProvisional_of_member {s : State} (h : ∃ k, (s.entry k).state = .member) (n : Node) (j : JoinMsg) :
    s.joinProvisional n j = s.setEntry n { s.entry n with state := .joining, role := some j.role, silence := none } := by
  obtain ⟨k, hk⟩ := h
  exact if_neg fun he => (members_isEmpty_iff s).1 he k hk

section

variable (s : State) (n : Node) (j : JoinMsg)

/-- The founder's own entry is MEMBER before it enters, so that entering changes the roster no more. -/
theorem founded_entry (k : Node) : (founded s n j).entry k = (s.found n j).entry k := by
  unfold founded
  split
  · next h =>
    subst h
    rw [enterMember_entry]
    split
    · next hk =>
      have hsilence : s.silenceOf s.own = none := if_pos rfl
      subst hk
      rw [show (s.found s.own j).own = s.own from rfl, found_entry, if_pos rfl]
      simp only [State.toMember, hsilence]
    · rfl
  · rfl

theorem founded_table : (founded s n j).table = { claims := [], halt := { latch := none, count := 0 } } := by
  unfold founded
  split
  · rw [enterMember_table]; rfl
  · rfl

/-- What founding sets of the member unit (R28). -/
theorem founded_member : (founded s n j).member.bodyFit = some j.fit ∧
    (founded s n j).member.takeCount = 1 + s.tableBehind ∧ (∀ k : Fin 8, (founded s n j).member.owed[k] = false) ∧
    (founded s n j).member.mstate = if n = s.own then .member else s.member.mstate := by
  by_cases hn : n = s.own
  · have hfounder : founded s n j = (s.found n j).enterMember := if_pos hn
    rw [if_pos hn, hfounder, enterMember_member]
    exact ⟨rfl, rfl, found_owed s n j, rfl⟩
  · have hother : founded s n j = s.found n j := if_neg hn
    rw [if_neg hn, hother]
    exact ⟨rfl, rfl, found_owed s n j, rfl⟩

end

theorem provisional_iff (s : State) :
    s.isProvisional = true ↔ s.member.mstate = .listen ∨ s.member.mstate = .joinWait := by
  simp [State.isProvisional]

/-- Settles O27, by whether the roster holds a MEMBER. -/
theorem joinFoundsTheBody : Obligations.JoinFoundsTheBody := by
  unfold Obligations.JoinFoundsTheBody
  intro s n j m hstate hhead hserial
  have hexec := exec_join hhead hserial (.inr ((provisional_iff s).2 hstate))
  have hnot : ¬s.isMember = true := by
    rw [isMember_iff]
    rcases hstate with h | h <;> rw [h] <;> nofun
  rw [if_neg hnot] at hexec
  refine ⟨fun hempty => ?_, fun hmember => ?_⟩
  · rw [joinProvisional_of_empty (s := s.popped) hempty] at hexec
    obtain ⟨hfit, hcount, howed, hmstate⟩ := founded_member s.popped n j
    have hentry (k : Node) : (finish s (founded s.popped n j)).entry k = if k = n then
        { s.popped.toMember n (s.entry n) with role := some j.role, heard := (s.entry n).heard || n != s.own }
        else (s.entry k).leave .unknown none := by
      rw [finish_entry, founded_entry, found_entry]; rfl
    have hown := hentry n
    rw [if_pos rfl] at hown
    refine ⟨_, hexec, ?_, ?_, ?_, ?_, ?_, ?_, ?_, ?_, ?_, ?_, ?_, ?_, ?_⟩
    · rw [hown]; rfl
    · rw [hown]
    · rw [hown]; rfl
    · rw [hown]; rfl
    · intro hn
      rw [hown]
      show ((s.entry n).heard || n != s.own) = true
      rw [bne_iff_ne.2 hn, Bool.or_true]
    · rw [hown]; rfl
    · intro k hk
      rw [hentry, if_neg hk]
      exact ⟨rfl, rfl, rfl⟩
    · rw [finish_table, founded_table]
    · rw [finish_member, hfit]
    · rw [finish_member, hcount]; rfl
    · intro k; rw [finish_member]; exact howed k
    · rw [finish_member]; exact hmstate
    · rintro rfl
      have hfounder : founded s.popped s.own j = (s.popped.found s.own j).enterMember := if_pos rfl
      rw [hfounder]
      refine ⟨?_, ?_, ?_, ?_, ?_⟩
      · exact finish_pends (enterMember_pends_posture _) (by decide) (by decide)
      · rw [finish_period, enterMember_period]
      · intro e he hf
        exact enterMember_join (s := s.popped.found s.own j) (mem_of_finish he (by rw [hf]; rfl)) hf
      · intro hp
        exact finish_pends (enterMember_pends_halt (s := s.popped.found s.own j) hp rfl) nofun nofun
      · intro hp e he hk
        exact enterMember_halt (s := s.popped.found s.own j) (.inl hp) (mem_of_finish he (by rw [hk]; rfl)) hk
  · rw [hexec, joinProvisional_of_member (s := s.popped) hmember]
    rfl

/-! ## Admission -/

/-- A joiner's role is taken, or its fitting code is not the body's (R29). -/
theorem joinState_eq (s : State) (n : Node) (j : JoinMsg) : s.joinState n j =
    if s.member.bodyFit ≠ some j.fit ∨ (match j.role with | .hatch _ => 2 | .cab | .lift | .beacon => 1) ≤
      (allNodes.filter fun k => decide (k ≠ n ∧ ((s.entry k).state = .member ∨ (s.entry k).state = .joining) ∧
        (s.entry k).role = some j.role)).length then .barred else .joining := by
  have hholders : s.holdersOfRole n j.role =
      (allNodes.filter fun k => decide (k ≠ n ∧ ((s.entry k).state = .member ∨ (s.entry k).state = .joining) ∧
        (s.entry k).role = some j.role)).length := by
    unfold State.holdersOfRole
    congr 1
    refine List.filter_congr fun k _ => ?_
    rw [Bool.eq_iff_iff]
    simp [and_assoc]
  have hlimit : roleLimit j.role = match j.role with | .hatch _ => 2 | .cab | .lift | .beacon => 1 := by
    cases j.role <;> rfl
  rw [← hholders, ← hlimit]
  unfold State.joinState
  split
  · next h => exact (if_pos (.inl h)).symm
  · next h => simp only [h, false_or]

/-- The node once the membership of a joiner has ended, its entry not yet set (R29, R60). -/
def unseated (s : State) (n : Node) : State :=
  if (s.entry n).state = .member ∨ (s.entry n).state = .joining then s.removeFor n .removedByJoin else s

theorem joinMember_eq (s : State) (n : Node) (j : JoinMsg) : s.joinMember n j =
    ((unseated s n).setEntry n { s.entry n with state := s.joinState n j, role := some j.role, silence := none }).setOwed
      n true := by
  unfold State.joinMember unseated
  cases (s.entry n).state <;> rfl

theorem unseated_member (s : State) (n : Node) : (unseated s n).member = s.member := by
  unfold unseated
  split
  · exact (removeFor_replica s n _).2
  · rfl

theorem unseated_table (s : State) (n : Node) : (unseated s n).table.halt = s.table.halt ∧
    (unseated s n).table.claims =
      if ((s.entry n).state = .member ∨ (s.entry n).state = .joining) ∧ ∃ r ∈ s.table.claims, r.claimant = n then
        evalGrants (s.table.claims.filter fun r => r.claimant != n)
      else s.table.claims := by
  unfold unseated
  by_cases hin : (s.entry n).state = .member ∨ (s.entry n).state = .joining
  · rw [if_pos hin, (removeFor_replica s n _).1]
    simp only [hin, true_and]
    exact ⟨Removal.removeRecord_halt s n, Removal.removeRecord_claims s n⟩
  · rw [if_neg hin, if_neg fun h => hin h.1]
    exact ⟨rfl, rfl⟩

/-- The verdicts of a joiner's removal (R64, R65). -/
theorem unseated_eq (s : State) (n : Node) :
    let u : State := { s with table := (unseated s n).table }
    unseated s n =
      if n = s.own then
        (if ((s.entry n).state = .member ∨ (s.entry n).state = .joining) ∧ ∃ r ∈ s.table.claims, r.claimant = n then
          u.takeVerdict .removedByJoin else u)
      else if s.ownGranted = false ∧ u.ownGranted = true then u.takeVerdict .granted
      else u := by
  intro u
  by_cases hin : (s.entry n).state = .member ∨ (s.entry n).state = .joining
  · have hunseated : unseated s n = s.removeFor n .removedByJoin := if_pos hin
    have hu : u = { s with table := (s.removeRecord n).table } := by
      show ({ s with table := (unseated s n).table } : State) = _
      rw [hunseated, (removeFor_replica s n _).1]
    rw [hunseated, hu]
    by_cases hn : n = s.own
    · subst hn
      have h := removeFor_own s .removedByJoin
      extract_lets v at h
      rw [h, if_pos rfl]
      have hiff := ClaimTable.hasClaim_iff s.table.claims s.own
      by_cases hc : ∃ r ∈ s.table.claims, r.claimant = s.own
      · rw [if_pos (hiff.2 hc), if_pos ⟨hin, hc⟩]
      · rw [if_neg (mt hiff.1 hc), if_neg fun h => hc h.2]
    · rw [if_neg hn]
      exact removeFor_peer hn _
  · have hunseated : unseated s n = s := if_neg hin
    have hu : u = s := by
      show ({ s with table := (unseated s n).table } : State) = s
      rw [hunseated]
    have hends : ¬(((s.entry n).state = .member ∨ (s.entry n).state = .joining) ∧
        ∃ r ∈ s.table.claims, r.claimant = n) := fun h => hin h.1
    rw [hunseated, hu, if_neg hends]
    cases s.ownGranted <;> simp

/-- Settles O28: the joiner's old membership ends first, then its entry is set and a snapshot owed. -/
theorem joinIsAdmittedOrBarred : Obligations.JoinIsAdmittedOrBarred := by
  unfold Obligations.JoinIsAdmittedOrBarred
  intro s n j m hm hhead hserial holders limit
  have hexec := exec_join hhead hserial (.inl (isMember_of hm))
  rw [if_pos (isMember_of hm), joinMember_eq] at hexec
  have hstate : s.popped.joinState n j =
      if s.member.bodyFit ≠ some j.fit ∨ limit ≤ holders then .barred else .joining := joinState_eq s.popped n j
  have hmember := unseated_member s.popped n
  obtain ⟨hhalt, hclaims⟩ := unseated_table s.popped n
  generalize hv : unseated s.popped n = v at hexec hmember hhalt hclaims
  have hentry (k : Node) : (finish s ((v.setEntry n
      { s.popped.entry n with state := s.popped.joinState n j, role := some j.role, silence := none }).setOwed n
        true)).entry k = if k = n then
          { s.entry n with state := s.popped.joinState n j, role := some j.role, silence := none } else s.entry k := by
    rw [finish_entry, setOwed_entry, setEntry_entry, entry_of_member hmember]; rfl
  refine ⟨_, hexec, ?_, fun k hk => ?_, fun k => ?_, ?_, ?_, ?_, ?_⟩
  · rw [hentry, if_pos rfl, hstate]
  · rw [hentry, if_neg hk]
  · rw [finish_member, setOwed_owed]
    show (if k = n then true else v.member.owed[k]) = _
    rw [hmember]; rfl
  · rw [finish_table]; exact hhalt
  · rw [finish_table]; exact hclaims
  · rw [finish_member]
    show v.member.mstate = _
    rw [hmember]; exact hm
  · have hverdict := unseated_eq s.popped n
    rw [hv] at hverdict
    rw [hentry, if_pos rfl, finish_table]
    exact hexec.trans (congrArg (fun x : State => Host.Outcome.next (finish s ((x.setEntry n
      { s.entry n with state := s.popped.joinState n j, role := some j.role, silence := none }).setOwed n true)))
      hverdict)

end Sys2Proof.Joining
end

section
/-! O29 to O32: a duplicate number (R41), a POSTURE (R27, R37, R38), PROBE and REPLY (R196, R197), and the timers of the
membership unit (R24, R25, R34). -/

namespace Sys2Proof.Postures

open Sys2Proof.Machine Sys2Proof.Laws Sys2Proof.FrameProcessing Sys2Proof.BlockLaws Sys2Proof.Entering Sys2Proof.Processing

/-! ## Departures during processing -/

/-- A node has left alike whatever its link and its roster were. -/
theorem hasLeft_of_roster {s t : State} {l : LinkUnit} {v : Vector Entry 8} {d : Departure} {c : Cause}
    (h : hasLeft { s with link := l, member := { s.member with roster := v } } t d c) : hasLeft s t d c := by
  unfold hasLeft State.runRecordsEnded at h ⊢
  cases hr : s.runs.run <;> simp only [hr] at h ⊢ <;> exact h

/-- A departure during the processing of a frame that has touched no more than link and roster. -/
theorem left_of_roster {s : State} (old : State) (l : LinkUnit) (v : Vector Entry 8) (d : Departure) (c : Cause) :
    let u : State := { s with link := l, member := { s.member with roster := v } }
    hasLeft s (finish old (u.leave d c)) d c ∧ keptOnLeaving s (finish old (u.leave d c)) := by
  intro u
  exact ⟨hasLeft_of_roster (leave_hasLeft old u d c), EngineBlocks.leave_keptOnLeaving old u d c⟩

theorem left_of_popped (s old : State) (d : Departure) (c : Cause) :
    hasLeft s (finish old (s.popped.leave d c)) d c ∧ keptOnLeaving s (finish old (s.popped.leave d c)) :=
  left_of_roster old s.popped.link s.member.roster d c

/-! ## A duplicate number -/

/-- The node is in the body or builds a provisional roster (R24). -/
theorem inside_iff (s : State) : (s.isMember || s.isProvisional) = true ↔
    s.member.mstate = .listen ∨ s.member.mstate = .joinWait ∨ s.member.mstate = .member := by
  rw [Bool.or_eq_true, isMember_iff, Joining.provisional_iff]
  tauto

/-- Settles O29: the duplicate is found before the frame has any other effect. -/
theorem duplicateNumberBars : Obligations.DuplicateNumberBars := by
  unfold Obligations.DuplicateNumberBars
  intro s m hin
  have hinside : (!(s.popped.isMember || s.popped.isProvisional)) = false := by
    rw [Bool.not_eq_false']; exact (inside_iff s).2 hin
  refine ⟨fun j hj hhead => ?_, fun q hrange hq hhead => ?_⟩
  · have hread : readJoinPayload j.payload = some j := (Payloads.readJoinPayload_eq_some _ j).2 rfl
    have hdup : s.own = s.popped.own ∧ j.serial ≠ s.popped.serial := ⟨rfl, hj⟩
    have hexec : exec .join s = .next (finish s (s.popped.leave .barred .duplicate)) := by
      change execJoin s = _
      simp only [execJoin, process_head hhead, State.takeJoin, hread, hinside, if_pos hdup]
      rfl
    exact ⟨_, hexec, left_of_popped s s .barred .duplicate⟩
  · have hread : readPosturePayload q.payload = some q := (Payloads.readPosturePayload_eq_some _ q).2 ⟨hrange, rfl⟩
    have hown : s.own = s.popped.own := rfl
    have hserial : q.serial ≠ s.popped.serial := hq
    have hexec : exec .posture s = .next (finish s (s.popped.leave .barred .duplicate)) := by
      change execPosture s = _
      simp only [execPosture, process_head hhead, State.takePosture, hread, hinside, if_pos hown, if_pos hserial]
      rfl
    exact ⟨_, hexec, left_of_popped s s .barred .duplicate⟩

/-! ## POSTURE -/

/-- More peers DISAGREE than AGREE (R38), by their numbers. -/
theorem diverged_iff (s : State) : s.diverged = true ↔
    (allNodes.filter fun k => decide (k ≠ s.own ∧ (s.entry k).state = .member ∧ (s.entry k).agree = true)).length <
      (allNodes.filter fun k => decide (k ≠ s.own ∧ (s.entry k).state = .member ∧ (s.entry k).agree = false)).length := by
  have hmarks (p : Node → Bool) (v : Bool) (hp : ∀ k, p k = ((s.entry k).agree == v)) :
      (s.members.filter fun n => n != s.own).filter p =
        allNodes.filter fun k => decide (k ≠ s.own ∧ (s.entry k).state = .member ∧ (s.entry k).agree = v) := by
    rw [State.members, List.filter_filter, List.filter_filter]
    refine List.filter_congr fun k _ => ?_
    rw [Bool.eq_iff_iff]
    simp only [hp, Bool.and_eq_true, beq_iff_eq, bne_iff_ne, decide_eq_true_eq]
    tauto
  unfold State.diverged
  dsimp only
  rw [decide_eq_true_eq, hmarks _ true fun k => ?_, hmarks _ false fun k => ?_]
  · cases (s.entry k).agree <;> rfl
  · cases (s.entry k).agree <;> rfl

/-- The entry of a peer under its POSTURE (R27, R37, assumption 45). -/
def postured (e : Entry) (q : PostureMsg) (noted : BitVec 8) : Entry :=
  let x : Entry := { e with last := some { conds := q.conds, sum := q.sum, halted := q.halted } }
  if x.state = .member then { x with agree := q.take == noted, fresh := true } else x

theorem byPosture_cases (s : State) (n : Node) (q : PostureMsg) (noted : BitVec 8) :
    s.byPosture n q noted = s.setEntry n (postured (s.entry n) q noted) ∧ (s.entry n).state ≠ .absent ∨
      s.byPosture n q noted = (s.setEntry n (postured (s.entry n) q noted)).queue (.evict n) ∧
        (s.entry n).state = .absent := by
  unfold State.byPosture postured
  dsimp only
  cases (s.entry n).state <;> simp [PostureMsg.last]

/-- A POSTURE of a peer touches the transmit list and that peer's entry alone. -/
theorem byPosture_frame (s : State) (n : Node) (q : PostureMsg) (noted : BitVec 8) :
    s.byPosture n q noted =
      { s with
        link := (s.byPosture n q noted).link
        member := { s.member with roster := s.member.roster.set n (postured (s.entry n) q noted) } } := by
  rcases byPosture_cases s n q noted with ⟨h, -⟩ | ⟨h, -⟩
  · rw [h]; rfl
  · rw [h]
    exact queue_eq _ _

theorem byPosture_entry (s : State) (n k : Node) (q : PostureMsg) (noted : BitVec 8) :
    (s.byPosture n q noted).entry k = if k = n then postured (s.entry n) q noted else s.entry k := by
  have hmember : (s.byPosture n q noted).member = (s.setEntry n (postured (s.entry n) q noted)).member := by
    rw [byPosture_frame]; rfl
  rw [entry_of_member hmember, setEntry_entry]

/-- A POSTURE at the head that is no duplicate. -/
theorem exec_posture {s : State} {n : Node} {q : PostureMsg} {m : BitVec 8} (hrange : q.sum.inRange = true)
    (hhead : s.headIs .posture n q.payload m) :
    exec .posture s = .next (finish s
      (if !(s.isMember || s.isProvisional) then s.popped
       else if n = s.own then
         (if q.serial ≠ s.serial then s.popped.leave .barred .duplicate
          else if s.isMember then s.popped.checkDiverged else s.popped)
       else if s.isMember then (s.popped.byPosture n q m).checkDiverged
       else s.popped.mapRoster (s.popped.bySighting n q))) := by
  have hread : readPosturePayload q.payload = some q := (Payloads.readPosturePayload_eq_some _ q).2 ⟨hrange, rfl⟩
  change execPosture s = _
  simp only [execPosture, process_head hhead, State.takePosture, hread]
  rfl

theorem exec_posture_member {s : State} {n : Node} {q : PostureMsg} {m : BitVec 8} (hrange : q.sum.inRange = true)
    (hhead : s.headIs .posture n q.payload m) (hn : n ≠ s.own) (hm : s.member.mstate = .member) :
    exec .posture s = .next (finish s (s.popped.byPosture n q m).checkDiverged) := by
  rw [exec_posture hrange hhead, isMember_of hm, if_neg hn]
  rfl

theorem exec_posture_provisional {s : State} {n : Node} {q : PostureMsg} {m : BitVec 8} (hrange : q.sum.inRange = true)
    (hhead : s.headIs .posture n q.payload m) (hn : n ≠ s.own)
    (hstate : s.member.mstate = .listen ∨ s.member.mstate = .joinWait) :
    exec .posture s = .next (finish s (s.popped.mapRoster (s.popped.bySighting n q))) := by
  have hm : s.isMember = false := (not_member_iff s).2 (by rcases hstate with h | h <;> rw [h] <;> nofun)
  rw [exec_posture hrange hhead, hm, (Joining.provisional_iff s).2 hstate, if_neg hn]
  rfl

/-- The node's own POSTURE counts the marks of a MEMBER, and has no other effect (assumption 24). -/
theorem exec_posture_own {s : State} {q : PostureMsg} {m : BitVec 8} (hrange : q.sum.inRange = true)
    (hhead : s.headIs .posture s.own q.payload m) (hserial : q.serial = s.serial) :
    exec .posture s = .next (finish s (if s.isMember = true then s.popped.checkDiverged else s.popped)) := by
  rw [exec_posture hrange hhead, if_pos rfl, if_neg (not_not.2 hserial)]
  cases s.isMember <;> simp

theorem checkDiverged_of {s : State} (h : s.diverged = true) : s.checkDiverged = s.leave .isolated .diverged := if_pos h

theorem checkDiverged_of_not {s : State} (h : ¬s.diverged = true) : s.checkDiverged = s := if_neg h

/-- An entry of a provisional roster under a sighting (R27, R79, assumption 25). -/
theorem mapRoster_entry (s : State) (f : Node → Entry → Entry) (k : Node) : (s.mapRoster f).entry k = f k (s.entry k) := by
  show (Vector.ofFn fun i : Fin 8 => f i s.member.roster[i])[k] = _
  simp only [Fin.getElem_fin, Vector.getElem_ofFn]
  rfl

/-- Settles O30: the node's own POSTURE, which counts the marks alone, and a peer's, in a body and before one. -/
theorem postureUpdatesTheRoster : Obligations.PostureUpdatesTheRoster := by
  unfold Obligations.PostureUpdatesTheRoster
  refine ⟨?_, ?_⟩
  · intro s q m hrange hserial hhead marks
    have hexec := exec_posture_own hrange hhead hserial
    have hdiverged : s.popped.diverged = true ↔ marks true < marks false := diverged_iff s.popped
    refine ⟨fun h => ?_, fun hm hlt => ?_⟩
    · rw [hexec]
      by_cases hm : s.member.mstate = .member
      · have hnot : ¬s.popped.diverged = true := by
          rw [hdiverged, not_lt]
          exact h.resolve_left (not_not.2 hm)
        rw [checkDiverged_of_not hnot, ite_self]
      · rw [(not_member_iff s).2 hm]
        rfl
    · rw [if_pos (isMember_of hm), checkDiverged_of (hdiverged.2 hlt)] at hexec
      exact ⟨_, hexec, left_of_popped s s .isolated .diverged⟩
  · intro s n q m hn hrange hhead e e' marks
    have hentry (k : Node) : (s.popped.byPosture n q m).entry k = if k = n then e' else s.entry k :=
      byPosture_entry s.popped n k q m
    have hdiverged : (s.popped.byPosture n q m).diverged = true ↔ marks true < marks false := by
      have hown : (s.popped.byPosture n q m).own = s.own := by rw [byPosture_frame]; rfl
      have hmarks (v : Bool) : (allNodes.filter fun k => decide (k ≠ (s.popped.byPosture n q m).own ∧
          ((s.popped.byPosture n q m).entry k).state = .member ∧ ((s.popped.byPosture n q m).entry k).agree = v)).length =
          marks v := by
        refine congrArg List.length (List.filter_congr fun k _ => ?_)
        rw [hown, hentry]
        by_cases hk : k = n <;> simp [hk]
      rw [diverged_iff, hmarks, hmarks]
    refine ⟨fun hm hle => ?_, fun hm hlt => ?_, fun hstate => ?_⟩
    · have hexec := exec_posture_member hrange hhead hn hm
      rw [checkDiverged_of_not (by rw [hdiverged]; omega)] at hexec
      refine ⟨_, hexec, ?_, fun k hk => ?_, ?_, ?_, fun habsent => ?_⟩
      · rw [finish_entry, hentry, if_pos rfl]
      · rw [finish_entry, hentry, if_neg hk]
      · rw [finish_table, byPosture_frame]; rfl
      · rw [finish_member, LocalCommands.byPosture_mstate]; exact hm
      · have hpends : (s.popped.byPosture n q m).pends (.evict n) := by
          rcases byPosture_cases s.popped n q m with ⟨-, h⟩ | ⟨h, -⟩
          · exact (h habsent).elim
          · rw [h]
            exact pends_queue_self _ ((mayQueue_iff _).2 (.inr hm))
        exact finish_pends hpends nofun nofun
    · have hexec := exec_posture_member hrange hhead hn hm
      rw [checkDiverged_of (hdiverged.2 hlt), byPosture_frame] at hexec
      exact ⟨_, hexec, left_of_roster s _ _ .isolated .diverged⟩
    · refine ⟨_, exec_posture_provisional hrange hhead hn hstate, fun k hk => ?_, ?_, ?_, ?_⟩
      · rw [finish_entry, mapRoster_entry, popped_entry]
        unfold State.bySighting
        simp only [if_neg hk, hk, false_or]
        rfl
      · rw [finish_entry, mapRoster_entry, popped_entry]
        have hsilence : s.popped.silenceOf n = some 150 := if_neg hn
        unfold State.bySighting State.toMember
        simp only [if_true, true_or, true_and, hsilence]
        by_cases hs : (s.entry n).state = .member
        · simp [hs, e, PostureMsg.last]
        · simp [hs, e, PostureMsg.last]
      · rw [finish_table]; rfl
      · rw [finish_member]; rfl

end Sys2Proof.Postures
end

section
/-! O31 and O32: PROBE and REPLY (R196, R197), and the timers of the membership unit (R24, R25, R34). -/

namespace Sys2Proof.Probes

open Sys2Proof.Machine Sys2Proof.Laws Sys2Proof.FrameProcessing Sys2Proof.BlockLaws Sys2Proof.Entering Sys2Proof.Processing

/-! ## PROBE and REPLY -/

/-- The content of a REPLY by what it was asked for (R197). -/
theorem replyContent_eq (s : State) (q : ProbeReq) : s.replyContent q =
    match q with
    | .status =>
      .summary
        { mstate := s.member.mstate, cause := s.member.cause, conds := s.condWord, sum := s.summary
          halt := s.table.halt, take := s.member.takeCount }
    | .log i => match s.log.slots[i.val]? with | some x => .record x.data | none => .none := by
  cases q with
  | status => rfl
  | log i =>
    unfold State.replyContent State.recordAt
    cases hx : s.log.slots[i.val]? <;> simp only [hx, Option.map_none, Option.map_some]

theorem exec_probe {s : State} {n : Node} {q : ProbeMsg} {m : BitVec 8} (hm : s.member.mstate = .member)
    (hhead : s.headIs .probe n q.payload m) :
    exec .probe s = .next (finish s (if q.target = s.own then
      s.popped.queue (.reply n q.req (s.popped.replyContent q.req)) else s.popped)) := by
  have hread : readProbePayload q.payload = some q := (Payloads.readProbePayload_eq_some _ q).2 rfl
  have hpopped : s.popped.isMember = true := isMember_of hm
  change execProbe s = _
  simp only [execProbe, process_head hhead, State.takeProbe, hread, hpopped, Bool.true_and, beq_iff_eq]
  rfl

theorem exec_reply {s : State} {n : Node} {p : List Byte} {q : ReplyMsg} {m : BitVec 8} (hm : s.member.mstate = .member)
    (hhead : s.headIs .reply n p m) (hread : readReplyPayload p = some q) :
    exec .reply s = .next (finish s (if s.port.relay = some { target := n, req := q.req } ∧ q.requester = s.own then
      { s.popped with port := s.port.endRelay (contentLines ((s.entry n).role.map RoleSide.role) q.req q.content) }
      else s.popped)) := by
  have hpopped : s.popped.isMember = true := isMember_of hm
  change execReply s = _
  simp only [execReply, process_head hhead, State.takeReply, hread, hpopped, Bool.true_and, State.relayMatches,
    Bool.and_eq_true, beq_iff_eq]
  rfl

theorem contentLines_eq (role : Option Role) (q : ProbeReq) (c : ReplyContent) : contentLines role q c =
    match c with
    | .none => [.none, .ok]
    | .summary x =>
      [.state x.mstate x.cause, .take x.take, .cond (trueConds role x.conds), .run x.sum none, .halt x.halt, .ok]
    | .record r => [.record (match q with | .log i => i.val | .status => 0) r, .ok] := by
  cases c <;> cases q <;> rfl

/-- Settles O31, by the target of the PROBE and by whether the REPLY is the relay's. -/
theorem probeAndReplyServeTheRelay : Obligations.ProbeAndReplyServeTheRelay := by
  unfold Obligations.ProbeAndReplyServeTheRelay
  refine ⟨?_, ?_⟩
  · intro s n q m hm hhead content
    have hexec := exec_probe hm hhead
    have hcontent : s.popped.replyContent q.req = content := replyContent_eq s.popped q.req
    refine ⟨fun ht => ?_, fun ht => ?_⟩
    · rw [hexec, if_pos ht, hcontent]
    · rw [hexec, if_neg ht]
  · intro s n p q m hm hhead hread role lines
    have hexec := exec_reply hm hhead hread
    have hlines : contentLines role q.req q.content = lines := contentLines_eq role q.req q.content
    refine ⟨fun h => ?_, fun h => ?_⟩
    · rw [hexec, if_pos h, hlines]
      rfl
    · rw [hexec, if_neg]
      rintro ⟨hslot, hown⟩
      exact h.elim (fun h => h hslot) fun h => h hown

/-! ## Timers of the membership unit -/

section

variable {s : State}

/-- A peer that falls silent in a body is marked, and an EVICT of it queued (R34). -/
theorem fallSilent_member (hm : s.member.mstate = .member) (n : Node) :
    s.fallSilent n = (s.setEntry n { s.entry n with heard := false, silence := none }).queue (.evict n) :=
  if_pos (isMember_of hm)

/-- In a provisional roster it becomes UNKNOWN, with no role (R34). -/
theorem fallSilent_provisional (h : s.member.mstate = .listen ∨ s.member.mstate = .joinWait) (n : Node) :
    s.fallSilent n = s.setEntry n { s.entry n with state := .unknown, role := none, silence := none } := by
  have hm : ¬s.isMember = true := by
    rw [isMember_iff]
    rcases h with h | h <;> rw [h] <;> nofun
  unfold State.fallSilent
  rw [if_neg hm, if_pos ((Joining.provisional_iff s).2 h)]
  rfl

theorem exec_silenceTimer {n : Node} (h : (s.entry n).silence ≠ none) :
    exec (.silenceTimer n) s = .next (finish s (s.fallSilent n)) := by
  obtain ⟨ms, hms⟩ := Option.ne_none_iff_exists'.1 h
  change execSilenceTimer n s = _
  unfold execSilenceTimer
  rw [hms]

end

/-- Settles O32, timer by timer. -/
theorem membershipTimersRunOut : Obligations.MembershipTimersRunOut := by
  unfold Obligations.MembershipTimersRunOut
  intro s
  refine ⟨fun hm ht => ?_, fun hm ht => ?_, fun hm ht => ?_, fun n hm ht => ?_, fun n hm ht => ?_, fun ht => ?_,
    fun ht => ?_, fun ht => ?_, fun n ht => ?_⟩
  · obtain ⟨ms, hms⟩ := Option.ne_none_iff_exists'.1 ht
    change execListenTimer s = _
    unfold execListenTimer
    rw [hms, hm]
    rfl
  · obtain ⟨ms, hms⟩ := Option.ne_none_iff_exists'.1 ht
    change execJoinRepeatTimer s = _
    unfold execJoinRepeatTimer
    rw [hms, hm]
    rfl
  · obtain ⟨ms, hms⟩ := Option.ne_none_iff_exists'.1 ht
    change execIsolationRestTimer s = _
    unfold execIsolationRestTimer
    rw [hms, hm]
    rfl
  · rw [exec_silenceTimer ht, fallSilent_member hm]
    have hmember (f : TxFrame) (t : State) : (t.queue f).member = t.member := (outer_fields (queue_outer t f)).2.2.1
    refine ⟨_, rfl, ?_, fun k hk => ?_, ?_, ?_⟩
    · rw [finish_entry, entry_of_member (hmember _ _), setEntry_entry_self]
    · rw [finish_entry, entry_of_member (hmember _ _), setEntry_entry_ne _ _ hk]
    · exact finish_pends (pends_queue_self _ ((mayQueue_iff _).2 (.inr hm))) nofun nofun
    · rw [finish_table, queue_eq]
      rfl
  · rw [exec_silenceTimer ht, fallSilent_provisional hm]
    refine ⟨_, rfl, ?_, fun k hk => ?_, ?_⟩
    · rw [finish_entry, setEntry_entry_self]
    · rw [finish_entry, setEntry_entry_ne _ _ hk]
    · rw [finish_table]
      rfl
  · change execListenTimer s = _
    unfold execListenTimer
    rw [ht]
  · change execJoinRepeatTimer s = _
    unfold execJoinRepeatTimer
    rw [ht]
  · change execIsolationRestTimer s = _
    unfold execIsolationRestTimer
    rw [ht]
  · change execSilenceTimer n s = _
    unfold execSilenceTimer
    rw [ht]

end Sys2Proof.Probes
end

section
/-! O33 and O34: the filters of the switch inputs (R67), and the press edge of a stop loop (R146, R151), behind which no
move of the engines opens a channel. -/

namespace Sys2Proof.Filters

open Sys2Proof.Machine Sys2Proof.Laws Sys2Proof.Engines Sys2Proof.BlockLaws Sys2Proof.HaltEffects Sys2Proof.Entering
  Sys2Proof.LocalLines

/-! ## The filter -/

theorem isStopLoop_iff (r : Role) (i : Fin 16) : isStopLoop r i = true ↔ i = 0 ∨ (i = 9 ∧ r = .lift) := by
  simp only [isStopLoop, Bool.or_eq_true, Bool.and_eq_true, beq_iff_eq]

theorem rawActive_eq (r : Role) (i : Fin 16) (closed : Bool) :
    rawActive r i closed = if i = 0 ∨ (i = 9 ∧ r = .lift) then !closed else closed := by
  simp only [rawActive, isStopLoop_iff]

theorem filterMs_eq (r : Role) (i : Fin 16) : filterMs r i = if i = 0 ∨ (i = 9 ∧ r = .lift) then 5 else 20 := by
  simp only [filterMs, isStopLoop_iff]
  rfl

/-- The node with the filtered value of an input at the raw level (R67). -/
def filtered (s : State) (i : Fin 16) : State :=
  s.setInput i { s.lines.inputs[i] with
    active := rawActive s.straps.role i s.lines.inputs[i].closed, timer := none }

/-- The filter runs out: the new level goes to its readers (R67). -/
theorem exec_filterExpiry {s : State} {i : Fin 16} (h : s.lines.inputs[i].timer ≠ none) :
    exec (.inputFilterExpiry i) s = .next (finish s
      (if rawActive s.straps.role i s.lines.inputs[i].closed = true then (filtered s i).becameActive i
       else (filtered s i).becameInactive i)) := by
  obtain ⟨ms, hms⟩ := Option.ne_none_iff_exists'.1 h
  change execInputFilterExpiry i s = _
  unfold execInputFilterExpiry
  rw [hms]
  rfl

theorem exec_filterExpiry_idle {s : State} {i : Fin 16} (h : s.lines.inputs[i].timer = none) :
    exec (.inputFilterExpiry i) s = .next (finish s s) := by
  change execInputFilterExpiry i s = _
  unfold execInputFilterExpiry
  rw [h]

theorem filtered_input (s : State) (i j : Fin 16) : (filtered s i).lines.inputs[j] =
    if j = i then { s.lines.inputs[i] with
      active := rawActive s.straps.role i s.lines.inputs[i].closed, timer := none } else s.lines.inputs[j] :=
  Kept.setInput_get s i j _

/-! ### What the readers leave of the inputs -/

theorem stopPress_inputs (s : State) (src : StopSource) : (s.stopPress src).lines.inputs = s.lines.inputs := by
  rw [stopPress_lines]

theorem ackPress_inputs (s : State) : s.ackPress.lines.inputs = s.lines.inputs := by
  unfold State.ackPress
  extract_lets _ s1
  split
  · rw [queue_lines]
  · rfl

theorem pendantOn_inputs (s : State) (i : Fin 16) : (s.pendantOn i).lines.inputs = s.lines.inputs := by
  unfold State.pendantOn
  split
  · split
    · rw [heldBegin_lines]; rfl
    · rfl
  · split
    · rfl
    · rw [heldEnd_lines]; rfl
  · rfl

theorem pendantOff_inputs (s : State) (i : Fin 16) : (s.pendantOff i).lines.inputs = s.lines.inputs := by
  unfold State.pendantOff
  split
  · split <;> rfl
  · split
    · rw [heldEnd_lines]; rfl
    · rfl
  · split <;> rfl

theorem panelPress_inputs (s : State) (i : Fin 16) : (s.panelPress i).lines.inputs = s.lines.inputs := by
  unfold State.panelPress
  split <;> rfl

theorem becameActive_inputs (s : State) (i : Fin 16) : (s.becameActive i).lines.inputs = s.lines.inputs := by
  unfold State.becameActive
  split
  · exact stopPress_inputs s _
  · split
    · exact ackPress_inputs s
    · cases s.straps.role with
      | lift =>
        dsimp only
        split
        · exact pendantOn_inputs s i
        · split
          · rfl
          · split <;> rfl
      | hatch => exact panelPress_inputs s i
      | cab | beacon => rfl

theorem becameInactive_inputs (s : State) (i : Fin 16) : (s.becameInactive i).lines.inputs = s.lines.inputs := by
  unfold State.becameInactive
  cases s.straps.role with
  | lift =>
    dsimp only
    split
    · exact pendantOff_inputs s i
    · rfl
  | cab | hatch | beacon => rfl

/-- The readers leave every input as the filter has set it. -/
theorem expired_inputs (s : State) (i : Fin 16) (b : Bool) (old : State) :
    (finish old (if b = true then s.becameActive i else s.becameInactive i)).lines.inputs = s.lines.inputs := by
  rw [finish_lines]
  split
  · exact becameActive_inputs s i
  · exact becameInactive_inputs s i

/-- A raw change of a contact (R67). -/
theorem exec_rawChange (s : State) (i : Fin 16) (closed : Bool) :
    exec (.rawInputChange i closed) s = .next (if s.lines.inputs[i].closed = closed then s
      else s.setInput i (Input.rawChange s.straps.role i s.lines.inputs[i] closed)) := rfl

/-- Settles O33: the two commands of a filter, by whether they find something to do. -/
theorem rawChangesRunTheFilter : Obligations.RawChangesRunTheFilter := by
  unfold Obligations.RawChangesRunTheFilter
  intro s i closed x stopLoop level
  refine ⟨fun h => ?_, fun h => ?_, fun h => ?_, exec_filterExpiry_idle⟩
  · intro y
    have hy : Input.rawChange s.straps.role i x closed = y := by
      simp only [Input.rawChange, filterTimer, rawActive_eq, filterMs_eq]
      rfl
    rw [exec_rawChange, if_neg h, hy]
    rfl
  · rw [exec_rawChange, if_pos h]
  · have hinput (j : Fin 16) : (finish s (if rawActive s.straps.role i s.lines.inputs[i].closed = true then
        (filtered s i).becameActive i else (filtered s i).becameInactive i)).lines.inputs[j] =
        (filtered s i).lines.inputs[j] := by
      rw [expired_inputs]
    refine ⟨_, exec_filterExpiry h, ?_, ?_, ?_, fun j hj => ?_⟩
    · rw [hinput, filtered_input, if_pos rfl]
    · rw [hinput, filtered_input, if_pos rfl, rawActive_eq]
    · rw [hinput, filtered_input, if_pos rfl]
    · rw [hinput, filtered_input, if_neg hj]

/-! ## No channel opens while a stop is pressed -/

/-- Every channel of the node is let down. -/
def LetDown (s : State) : Prop := ∀ x, (s.chans.get x).state.letDown = true

theorem LetDown.of_chans {s t : State} (hs : LetDown s) (h : t.chans = s.chans) : LetDown t := fun x => by
  rw [h]
  exact hs x

theorem LetDown.setRun {s : State} (hs : LetDown s) (r : Run) : LetDown (s.setRun r) := hs

theorem LetDown.setSteps {s : State} (hs : LetDown s) (u : StepUnit) : LetDown (s.setSteps u) := hs

/-- No command but OPEN brings a channel out of the states of a channel let down (R142). -/
theorem after_letDown {c : ChanRec} (h : c.state.letDown = true) {cmd : ChanCmd} (hcmd : cmd ≠ .openCmd) :
    (c.after cmd).state.letDown = true := by
  obtain ⟨st, b, t⟩ := c
  cases cmd with
  | openCmd => exact (hcmd rfl).elim
  | drive d | hold =>
    cases st with
    | closed | relieving | resting | faulted => rfl
    | _ => cases h
  | relieve => exact (after_relieve _).1

theorem LetDown.command {s : State} (hs : LetDown s) (c : Chan) {cmd : ChanCmd} (h : cmd ≠ .openCmd) :
    LetDown (s.command c cmd) := by
  intro x
  rw [command_get]
  split
  · exact after_letDown (hs x) h
  · exact hs x

theorem LetDown.enterEnding {s : State} (hs : LetDown s) (o : RunOutcome) (c : Option Cause) :
    LetDown (s.enterEnding o c) := by
  cases hr : s.runs.run with
  | none => rwa [show s.enterEnding o c = s by rw [State.enterEnding, hr]]
  | some r =>
    obtain ⟨-, -, -, hchans⟩ := enterEnding_spec hr o c
    exact fun x => by rw [hchans]; exact (after_relieve _).1

theorem LetDown.relieveOthers {s : State} (hs : LetDown s) (c : Chan) : LetDown (s.relieveOthers c) := by
  obtain ⟨u, hu, hx⟩ := relieveOthers_spec s c
  intro x
  rw [hu]
  show ((u.get x).state).letDown = true
  rw [hx]
  split
  · rfl
  · exact hs x

theorem LetDown.failStep {s : State} (hs : LetDown s) (c : CurStep) (d : StepDef) (x : Cause) (b : Bool) :
    LetDown (s.failStep c d x b) :=
  (hs.command d.chan (cmd := .relieve) nofun).of_chans (failStep_chans ..)

theorem LetDown.stepDone {s : State} (hs : LetDown s) (c : CurStep) (d : StepDef) : LetDown (s.stepDone c d) := by
  have hcmd : (if d.autoRelieve then ChanCmd.relieve else ChanCmd.hold) ≠ .openCmd := by split <;> nofun
  exact (hs.command d.chan hcmd).of_chans rfl

theorem LetDown.nestTrigger {s : State} (hs : LetDown s) (r : Run) (c : CurStep) (d : StepDef) (m : Manoeuvre) :
    LetDown (s.nestTrigger r c d m) := by
  unfold State.nestTrigger
  split
  · exact hs.failStep _ _ _ _
  · split
    · exact hs.failStep _ _ _ _
    · split
      · exact (hs.command d.chan (cmd := .hold) nofun).of_chans (arm_chans ..)
      · exact hs.failStep _ _ _ _

theorem LetDown.completeTop {s : State} (hs : LetDown s) (r : Run) : LetDown (s.completeTop r) := by
  unfold State.completeTop
  split
  · exact hs.enterEnding _ _
  · exact hs.of_chans (arm_chans ..)

theorem LetDown.failTop {s : State} (hs : LetDown s) (r : Run) (cause : Option Cause) : LetDown (s.failTop r cause) := by
  unfold State.failTop
  split
  · exact hs.enterEnding _ _
  · dsimp only
    split
    · exact (hs.setRun _).enterEnding _ _
    · exact ((hs.setRun _).setSteps _).failStep _ _ _ _

theorem LetDown.takeOutcome {s : State} (hs : LetDown s) (r : Run) (o : RunOutcome) (cause : Option Cause) :
    LetDown (s.takeOutcome r o cause) := by
  unfold State.takeOutcome
  split
  · exact hs.failTop _ _
  · dsimp only
    split
    · exact (hs.setRun _).completeTop _
    · exact hs.of_chans (arm_chans ..)

section

variable {s t : State} {r : Run} {c : CurStep} {d : StepDef}

theorem startRecovery_chans (h : s.startRecovery = some t) : t.chans = s.chans := by
  unfold State.startRecovery at h
  split at h <;> cases h
  rfl

/-- The way is not clear while a stop is pressed (R126). -/
theorem clearWay_of_stop (hp : s.stopPressed = true) (d : StepDef) : s.clearWay d = false := by
  rw [State.clearWay, hp]
  exact Bool.and_false _

theorem LetDown.armingMove (hs : LetDown s) (hp : s.stopPressed = true) (h : s.armingMove r c d = some t) :
    LetDown t := by
  unfold State.armingMove at h
  cases hg : c.gate <;> simp only [hg] at h
  case check =>
    obtain rfl := Option.some.inj h
    split
    · exact LetDown.of_chans (hs.relieveOthers d.chan) rfl
    · exact hs.of_chans rfl
  case fence =>
    split at h
    · obtain rfl := Option.some.inj h; exact hs.of_chans rfl
    · exact hs.of_chans (startRecovery_chans h)
  case skip =>
    split at h
    · split at h <;> (obtain rfl := Option.some.inj h; exact hs.of_chans rfl)
    · obtain rfl := Option.some.inj h; exact hs.of_chans rfl
  case way =>
    rw [clearWay_of_stop hp, if_neg (by decide)] at h
    exact hs.of_chans (startRecovery_chans h)

theorem LetDown.drivingMove (hs : LetDown s) (h : s.drivingMove r c d = some t) : LetDown t := by
  unfold State.drivingMove at h
  split at h
  · obtain rfl := Option.some.inj h; exact hs.stepDone _ _
  · split at h
    · obtain rfl := Option.some.inj h; exact hs.nestTrigger _ _ _ _
    · split at h
      · obtain rfl := Option.some.inj h
        exact LetDown.of_chans (hs.command d.chan (cmd := .hold) nofun) rfl
      · split at h
        · split at h
          · cases h
          · obtain rfl := Option.some.inj h; exact hs.failStep _ _ _ _
        case h_2 | h_3 =>
          obtain rfl := Option.some.inj h
          exact LetDown.of_chans (hs.command d.chan (cmd := .drive d.dir) nofun) rfl
        all_goals
          obtain rfl := Option.some.inj h
          exact hs.failStep _ _ _ _

theorem LetDown.plainMove (hs : LetDown s) (hp : s.stopPressed = true) (h : s.plainMove r c d = some t) : LetDown t := by
  have hway := clearWay_of_stop hp d
  have hback : LetDown s.returnToArming := hs.of_chans (arm_chans ..)
  unfold State.plainMove at h
  cases hc : c.state <;> simp only [hc, hway, Bool.false_eq_true, if_false] at h
  case arming => exact hs.armingMove hp h
  case leading | opening | priming => obtain rfl := Option.some.inj h; exact hback
  case driving => exact hs.drivingMove h
  case stalled =>
    split at h
    · obtain rfl := Option.some.inj h; exact hs.of_chans rfl
    · cases h
  case closing =>
    split at h
    · obtain rfl := Option.some.inj h; exact hs.of_chans (arm_chans ..)
    · cases h
  case paused | ended => cases h

theorem LetDown.stepMove (hs : LetDown s) (hp : s.stopPressed = true) (h : stepMove s = some t) : LetDown t := by
  unfold Machine.stepMove at h
  split at h
  · split at h
    · split at h
      · obtain rfl := Option.some.inj h; exact hs.takeOutcome _ _ _
      · split at h
        · cases h
        · split at h
          · obtain rfl := Option.some.inj h; exact hs.failStep _ _ _ _
          · split at h
            · obtain rfl := Option.some.inj h; exact hs.failStep _ _ _ _
            · exact hs.plainMove hp h
    · cases h
  · cases h

theorem leaveEnding_chans (s : State) (r : Run) : (s.leaveEnding r).chans = s.chans := by
  unfold State.leaveEnding
  dsimp only
  split
  · rfl
  · exact queueYield_chans s

theorem runMove_chans (h : runMove s = some t) : t.chans = s.chans := by
  unfold runMove at h
  split at h
  · cases h
  · split at h
    · split at h
      · obtain rfl := Option.some.inj h; exact leaveEnding_chans ..
      · split at h
        · cases h
        · obtain rfl := Option.some.inj h; rfl
    · split at h
      · split at h
        · obtain rfl := Option.some.inj h; exact queueYield_chans _
        · cases h
      · split at h
        · obtain rfl := Option.some.inj h; exact queueClaim_chans ..
        · cases h
    all_goals cases h

theorem LetDown.engineMove (hs : LetDown s) (hp : s.stopPressed = true) (h : engineMove s = some t) : LetDown t := by
  unfold Machine.engineMove at h
  split at h
  · next u hu => obtain rfl := Option.some.inj h; exact hs.stepMove hp hu
  · exact hs.of_chans (runMove_chans h)

theorem stopPressed_of_outer (h : outer t = outer s) : t.stopPressed = s.stopPressed := by
  obtain ⟨hstraps, -, -, -, hlines, -⟩ := outer_fields h
  rw [State.stopPressed, State.input, State.input, hstraps, hlines]
  rfl

/-- While a stop is pressed, an event that has let every channel down ends with every channel let down (R126, R146). -/
theorem LetDown.finish (hs : LetDown s) (hp : s.stopPressed = true) (old : State) : LetDown (finish old s) := by
  have key : (Machine.finish old s).stopPressed = true ∧ LetDown (Machine.finish old s) := by
    refine finish_keeps (P := fun t => t.stopPressed = true ∧ LetDown t) ?_ ?_ ?_ old s ⟨hp, hs⟩
    · rintro t u hmove ⟨hstop, hdown⟩
      exact ⟨(stopPressed_of_outer (engineMove_outer hmove)).trans hstop, hdown.engineMove hstop hmove⟩
    · rintro o t ⟨hstop, hdown⟩
      exact ⟨(stopPressed_of_outer (noteChange_outer o t)).trans hstop, hdown.of_chans (noteChange_chans o t)⟩
    · rintro f hf t ⟨hstop, hdown⟩
      exact ⟨(stopPressed_of_outer (passes_outer f hf t)).trans hstop,
        hdown.of_chans (inner_fields (passes_inner f hf t)).2.2.1⟩
  exact key.2

end

/-! ## The stop loop -/

/-- An input that has become active on a stop loop reads pressed (R68). -/
theorem stopPressed_of_active {s : State} {i : Fin 16} (hi : i = 0 ∨ (i = 9 ∧ s.straps.role = .lift))
    (ha : s.input i = true) : s.stopPressed = true := by
  rw [State.stopPressed]
  rcases hi with rfl | ⟨rfl, hr⟩
  · rw [ha]; rfl
  · rw [ha, hr, Bool.and_true]; exact Bool.or_true _

theorem stopPress_chans (s : State) (src : StopSource) (x : Chan) :
    (s.stopPress src).chans.get x = (s.chans.get x).after .relieve := by
  have hrelieved : s.relieveAll.chans.get x = (s.chans.get x).after .relieve := each_get _ _ _
  unfold State.stopPress
  dsimp only
  split
  · rw [show ((s.relieveAll.queue (.halt src)).withdraw .clear none).chans = s.relieveAll.chans from queue_chans _ _]
    exact hrelieved
  · exact hrelieved

theorem stopPress_of_member {s : State} (hm : s.member.mstate = .member) (src : StopSource) :
    s.stopPress src = (s.relieveAll.queue (.halt src)).withdraw .clear none :=
  if_pos (FrameProcessing.isMember_of (s := s.relieveAll) hm)

/-- Settles O34: every channel is let down before the engines move, and no move opens one while the stop is pressed. -/
theorem stopPressLetsTheNodeDown : Obligations.StopPressLetsTheNodeDown := by
  unfold Obligations.StopPressLetsTheNodeDown
  intro s i hi ht hopen
  have hlevel : rawActive s.straps.role i s.lines.inputs[i].closed = true := by
    rw [rawActive_eq, if_pos hi, hopen]; rfl
  have hread : (filtered s i).becameActive i = (filtered s i).stopPress (if i = 0 then .panel else .pendant) :=
    if_pos ((isStopLoop_iff _ _).2 hi)
  have hexec := exec_filterExpiry ht
  rw [if_pos hlevel, hread] at hexec
  have hactive : (filtered s i).input i = true := by
    rw [State.input, filtered_input, if_pos rfl]; exact hlevel
  have hpress : (filtered s i).stopPressed = true := stopPressed_of_active (s := filtered s i) hi hactive
  have hpress' (src : StopSource) : ((filtered s i).stopPress src).stopPressed = true := by
    have hlines := stopPress_lines (filtered s i) src
    have hstraps : ((filtered s i).stopPress src).straps = s.straps := by
      unfold State.stopPress; dsimp only; split
      · rw [queue_eq]; rfl
      · rfl
    rw [State.stopPressed, State.input, State.input, hlines, hstraps]
    exact hpress
  have hdown (src : StopSource) : LetDown ((filtered s i).stopPress src) := fun x => by
    rw [stopPress_chans]
    exact (after_relieve _).1
  refine ⟨_, hexec, ?_, (hdown _).finish (hpress' _) s, fun hm => ?_⟩
  · rw [stopPressed_of_outer (finish_outer _ _)]
    exact hpress' _
  · rw [stopPress_of_member (s := filtered s i) hm]
    refine ⟨?_, fun e he hk => ?_⟩
    · refine finish_pends (pends_withdraw (pends_queue_self _ ((mayQueue_iff _).2 (.inr hm))) nofun) nofun nofun
    · have hmem := mem_of_finish he (by rw [hk]; rfl)
      have hmark := withdrawn_of_mem hmem (isFor_of_kind hk (by decide))
      have hline : ((filtered s i).relieveAll.queue (.halt (if i = 0 then .panel else .pendant))).link.line =
          s.link.line := (outer_fields (queue_outer _ _)).2.2.2.2.2.2.2.2.2.1
      rw [hline] at hmark
      exact hmark

end Sys2Proof.Filters
end

section
/-! O35: the press edge of ACK with its four readers (R68, R70, R145, R157, R177). -/

namespace Sys2Proof.Acknowledge

open Sys2Proof.Machine Sys2Proof.Laws Sys2Proof.Engines Sys2Proof.EngineBlocks Sys2Proof.BlockLaws
  Sys2Proof.FrameProcessing Sys2Proof.HaltEffects Sys2Proof.Entering Sys2Proof.Filters Sys2Proof.LocalLines

/-! ## A group whose demand stands -/

theorem hazardTo_get (u : BeaconUnit) (b : Bool) (g : Sys2Proof.Group) : (u.hazardTo b).get g = u.get g := by
  unfold BeaconUnit.hazardTo
  split
  · rfl
  · split
    · exact (show ({ u.cutTest with hazard := true, flash := _ } : BeaconUnit).get g = u.cutTest.get g by
        cases g <;> rfl).trans (cutTest_get u g)
    · cases g <;> rfl

theorem testFor_get (u : BeaconUnit) (b : Bool) (g : Sys2Proof.Group) : (u.testFor b).get g = u.get g := by
  unfold BeaconUnit.testFor
  split
  · split <;> cases g <;> rfl
  · exact cutTest_get u g
  · rfl

/-- A group keeps its record under its own demand, and under that of another group (R176). -/
theorem demandTo_get (u : BeaconUnit) (g h : Sys2Proof.Group) {b : Bool} (hb : h = g → b = (u.get g).demanded) :
    (u.demandTo g b).get h = u.get h := by
  unfold BeaconUnit.demandTo
  split
  · rfl
  · next hne =>
    have hother : h ≠ g := fun e => hne (hb e)
    split
    · rw [beacon_set_get, if_neg hother, cutTest_get]
    · rw [beacon_set_get, if_neg hother]

/-- A group whose demand is as it should be is left alone as an event is finished. -/
theorem finish_group (old : State) {s : State} {g : Sys2Proof.Group}
    (h : s.straps.role = .beacon → (s.beacon.get g).demanded = s.demand g) :
    (finish old s).beacon.get g = s.beacon.get g := by
  have key : (finish old s).beacon.get g = s.beacon.get g ∧ cause (finish old s) = cause s := by
    refine finish_keeps_blocks (P := fun t => t.beacon.get g = s.beacon.get g ∧ cause t = cause s) ?_ ?_ ?_ old s
      ⟨rfl, rfl⟩
    · rintro t u hblocks houter ⟨hget, hcause⟩
      simp only [blocks, Prod.mk.injEq] at hblocks
      obtain ⟨hstraps, -, hmember, htable, -⟩ := outer_fields houter
      refine ⟨by rw [hblocks.2.1]; exact hget, ?_⟩
      rw [← hcause, cause, cause, hstraps, hmember, htable]
    · rintro o t ⟨hget, hcause⟩
      exact ⟨by rw [(noteChange_blocks o t).2.1]; exact hget, (noteChange_cause o t).trans hcause⟩
    · refine passes_cases (P := fun f => ∀ t : State, (t.beacon.get g = s.beacon.get g ∧ cause t = cause s) →
        (f t).beacon.get g = s.beacon.get g ∧ cause (f t) = cause s) ?_ ?_ ?_ ?_ ?_ ?_ ?_ ?_ ?_
      · intro t ht; unfold snapshotPass; split
        · exact ht
        · split
          · rw [queue_eq]; exact ht
          · exact ht
      · exact fun t ht => ⟨(hazardTo_get _ _ g).trans ht.1, ht.2⟩
      · intro k t ht
        unfold demandPass
        split
        · next hrole =>
          refine ⟨(demandTo_get _ _ _ fun hg => ?_).trans ht.1, ht.2⟩
          subst hg
          have hstraps : t.straps = s.straps := (Prod.mk.inj ht.2).1
          rw [ht.1, h (hstraps ▸ hrole), (cause_demand ht.2).2]
        · exact ht
      · intro t ht; unfold lampTestPass; split
        · exact ⟨(testFor_get _ _ g).trans ht.1, ht.2⟩
        · exact ht
      · intro t ht; unfold cabPass; split <;> exact ht
      · intro t ht; unfold nodeOkPass; split <;> exact ht
      · intro t ht; unfold believePass; split <;> exact ht
      · exact fun t ht => ht
      · intro t ht; unfold plausPass; split <;> exact ht
  exact key.1

/-! ## The press edge -/

/-- The readers of ACK but the last (R70, R145, R177). -/
def acknowledged (s : State) : State :=
  { s with
    lines := { s.lines with outLatch := Vector.replicate 12 false }
    chans := if s.runs.run.isNone then s.chans.each ChanRec.acked else s.chans
    beacon := s.beacon.acked }

theorem ackPress_eq (s : State) :
    s.ackPress = if (acknowledged s).ackClears = true then (acknowledged s).queue .clear else acknowledged s := rfl

/-- ACK queues a CLEAR beside what it acknowledges (R157). -/
theorem ackPress_frame (s : State) : s.ackPress = { acknowledged s with link := s.ackPress.link } := by
  rw [ackPress_eq]
  split
  · exact queue_eq _ _
  · rfl

theorem acked_get (u : BeaconUnit) (g : Sys2Proof.Group) : u.acked.get g = (u.get g).acked := by cases g <;> rfl

theorem acked_demanded (x : GroupRec) : x.acked.demanded = x.demanded := by
  unfold GroupRec.acked
  split <;> rfl

theorem acked_failed {x : GroupRec} (h : x.state = .failed) :
    x.acked.state = if x.demanded = true then .failed else .dark := by
  unfold GroupRec.acked
  cases hd : x.demanded
  · rw [if_pos ⟨h, rfl⟩, if_neg (by decide)]
  · rw [if_neg (by simp), if_pos rfl, h]

/-- The conditions of a CLEAR, but the stop loops (R157). -/
theorem ackClears_iff (s : State) : s.ackClears = true ↔ s.member.mstate = .member ∧ s.stopPressed = false ∧
    ∃ o, s.table.halt.latch = some o ∧ (o = s.own ∨ (s.straps.role = .cab ∧ (s.entry o).state ≠ .member)) := by
  unfold State.ackClears
  cases s.table.halt.latch with
  | none => simp
  | some o =>
    simp only [Bool.and_eq_true, Bool.or_eq_true, isMember_iff, Bool.not_eq_true', beq_iff_eq, bne_iff_ne,
      Option.some.injEq, exists_eq_left', and_assoc]

/-- The ACK input is no stop loop. -/
theorem filtered_ack_stop (s : State) : (filtered s 1).stopPressed = s.stopPressed := by
  have hinput (j : Fin 16) (hj : j ≠ 1) : (filtered s 1).input j = s.input j := by
    rw [State.input, filtered_input, if_neg hj, State.input]
  rw [State.stopPressed, hinput 0 (by decide), hinput 9 (by decide)]
  rfl

/-- Settles O35: the readers one by one, and under every other command the law that `exec_keeping` carries. -/
theorem ackIsReadByItsFourReaders : Obligations.AckIsReadByItsFourReaders := by
  unfold Obligations.AckIsReadByItsFourReaders
  refine ⟨fun s ht hclosed => ?_, fun c s t x hexec hfaulted hpower hext hack => ?_⟩
  · have hloop : isStopLoop s.straps.role 1 = false := by cases s.straps.role <;> rfl
    have hlevel : rawActive s.straps.role 1 s.lines.inputs[(1 : Fin 16)].closed = true := by
      rw [rawActive, hloop, hclosed]; rfl
    have hread : (filtered s 1).becameActive 1 = (filtered s 1).ackPress := by
      unfold State.becameActive
      rw [if_neg (by rw [show (filtered s 1).straps = s.straps from rfl, hloop]; decide), if_pos rfl]
    have hexec := exec_filterExpiry ht
    rw [if_pos hlevel, hread] at hexec
    have hframe := ackPress_frame (filtered s 1)
    have hclears : (acknowledged (filtered s 1)).ackClears = true ↔ s.member.mstate = .member ∧ s.stopPressed = false ∧
        ∃ o, s.table.halt.latch = some o ∧
          (o = s.own ∨ (s.straps.role = .cab ∧ (s.entry o).state ≠ .member)) := by
      rw [← filtered_ack_stop]
      exact ackClears_iff (acknowledged (filtered s 1))
    refine ⟨_, hexec, fun o => ?_, fun hrun c => ?_, fun hrun c hfaulted => ?_, fun hlaws g hfailed => ?_, ?_⟩
    · rw [finish_lines, hframe]
      show (Vector.replicate 12 false)[o] = false
      simp
    · have hrun' : (filtered s 1).ackPress.runs.run = none := by rw [hframe]; exact hrun
      rw [(inner_fields (finish_inner_of_no_run hrun')).2.2.1, hframe]
      show (if s.runs.run.isNone then s.chans.each ChanRec.acked else s.chans).get c = _
      rw [hrun]
      exact each_get _ _ _
    · refine (finish_follows s _).faulted ?_
      rw [hframe]
      show ((if s.runs.run.isNone then s.chans.each ChanRec.acked else s.chans).get c).state = .faulted
      rw [if_neg (by rwa [Option.isNone_iff_eq_none])]
      exact hfaulted
    · have hget : (filtered s 1).ackPress.beacon.get g = (s.beacon.get g).acked := by
        rw [hframe]; exact acked_get _ _
      rw [finish_group s fun hrole => ?_, hget, acked_failed hfailed]
      rw [hget, acked_demanded]
      have hrole' : s.straps.role = .beacon := by rw [hframe] at hrole; exact hrole
      have hdemand : (filtered s 1).ackPress.demand g = s.demand g := by
        refine (cause_demand ?_).2 g
        rw [hframe]; rfl
      rw [hdemand]
      simp only [State.beaconLaws, hrole', Bool.and_eq_true, Bool.or_eq_true, List.all_eq_true, beq_iff_eq, bne_self_eq_false,
        Bool.false_eq_true, false_or] at hlaws
      exact hlaws.2 g (by cases g <;> decide)
    · refine ⟨fun hc => ?_, fun hc e he hf => ?_⟩
      · refine finish_pends ?_ nofun nofun
        rw [ackPress_eq, if_pos (hclears.2 hc)]
        exact pends_queue_self _ ((mayQueue_iff _).2 (.inr hc.1))
      · have hmem := mem_of_finish he (by rw [hf]; rfl)
        rw [ackPress_eq, if_neg fun h => hc (hclears.1 h)] at hmem
        exact hmem
  · have hkeeps := Kept.exec_keeping (acked := c = .inputFilterExpiry 1) (isReset_of_ne hpower hext) id s t hexec
    exact hkeeps.faulted hack x hfaulted

end Sys2Proof.Acknowledge
end

section
/-! O36, O37, O40 and O42: the height count (R75), the held-request detector (R73), the driver faults (R70, R144, R177)
and the settle timers (R141). -/

namespace Sys2Proof.Pendant

open Sys2Proof.Machine Sys2Proof.Laws Sys2Proof.Entering Sys2Proof.Filters

/-! ## The height count -/

/-- An input beside the stop loops, as its filter runs out. -/
theorem exec_filterExpiry_plain {s : State} {i : Fin 16} (h0 : i ≠ 0) (h9 : i ≠ 9)
    (h : s.lines.inputs[i].timer ≠ none) :
    exec (.inputFilterExpiry i) s = .next (finish s
      (if s.lines.inputs[i].closed = true then (filtered s i).becameActive i else (filtered s i).becameInactive i)) ∧
    filtered s i = s.setInput i { s.lines.inputs[i] with active := s.lines.inputs[i].closed, timer := none } := by
  have hraw : rawActive s.straps.role i s.lines.inputs[i].closed = s.lines.inputs[i].closed := by
    rw [rawActive_eq, if_neg (by simp [h0, h9])]
  refine ⟨?_, ?_⟩
  · rw [exec_filterExpiry h, hraw]
  · rw [filtered, hraw]

/-- The readers of an input of LIFT that has become active, beside the stop loops and ACKNOWLEDGE. -/
theorem becameActive_lift {u : State} {i : Fin 16} (hr : u.straps.role = .lift) (h0 : i ≠ 0) (h9 : i ≠ 9) (h1 : i ≠ 1) :
    u.becameActive i =
      if isPendantInput i then u.pendantOn i else if i = 12 then u.setHeight 0
      else if i = 13 then u.setHeight u.fitRow.bed else u := by
  have hstop : isStopLoop u.straps.role i ≠ true := by rw [Ne, isStopLoop_iff]; simp [h0, h9]
  rw [State.becameActive, if_neg hstop, if_neg h1, hr]

theorem becameInactive_lift {u : State} {i : Fin 16} (hr : u.straps.role = .lift) :
    u.becameInactive i = if isPendantInput i then u.pendantOff i else u := by
  rw [State.becameInactive, hr]

theorem strokeHeight_eq (s : State) (h : Nat) : s.strokeHeight h =
    if s.chans.lift.state = .driving .up then (if s.fitRow.bed + 63 < h + 1 then s.fitRow.bed + 63 else h + 1)
    else if s.chans.lift.state = .driving .down then (if s.fitRow.bed + 63 < h - 1 then s.fitRow.bed + 63 else h - 1)
    else h := by
  have hmin (a b : Nat) : min a b = if a < b then a else b := by
    split <;> omega
  unfold State.strokeHeight
  split
  · rename_i hup; rw [hup, if_pos rfl, hmin]
  · rename_i hdown; rw [hdown, if_neg nofun, if_pos rfl, hmin]
  · rename_i hup hdown; rw [if_neg hup, if_neg hdown]

theorem exec_strokePulse {s : State} {h : Nat} (hr : s.straps.role = .lift) (hh : s.lines.height = some h) :
    exec .strokePulse s = .next (finish s (s.setHeight (s.strokeHeight h))) := by
  change execStrokePulse s = _
  unfold execStrokePulse
  rw [hr, hh]

theorem exec_strokePulse_unread {s : State} (h : s.straps.role ≠ .lift ∨ s.lines.height = none) :
    exec .strokePulse s = .next (finish s s) := by
  change execStrokePulse s = _
  unfold execStrokePulse
  split
  · rename_i hr hh
    exact absurd h (by simp [hr, hh])
  · rfl

/-- Settles O36: the two switches set the count, and a pulse moves it with the LIFT channel. -/
theorem heightCountFollowsThePlatform : Obligations.HeightCountFollowsThePlatform := by
  unfold Obligations.HeightCountFollowsThePlatform
  intro s
  refine ⟨fun hr ht hc => ?_, fun hr ht hc => ?_, fun h hr hh => ?_, exec_strokePulse_unread⟩
  · refine ⟨_, (exec_filterExpiry_plain (by decide) (by decide) ht).1, ?_⟩
    rw [if_pos hc, becameActive_lift (u := filtered s 12) (i := 12) hr (by decide) (by decide) (by decide), finish_lines]
    rfl
  · refine ⟨_, (exec_filterExpiry_plain (by decide) (by decide) ht).1, ?_⟩
    rw [if_pos hc, becameActive_lift (u := filtered s 13) (i := 13) hr (by decide) (by decide) (by decide), finish_lines]
    rfl
  · rw [exec_strokePulse hr hh, strokeHeight_eq]
    rfl

/-! ## The held-request detector -/

theorem isPendantInput_iff (i : Fin 16) : isPendantInput i = true ↔ 2 ≤ i.val ∧ i.val ≤ 8 := by
  simp only [isPendantInput, Bool.and_eq_true, decide_eq_true_eq]

/-- ENABLE and exactly one function are active (R73). -/
theorem heldPair_eq_some (u : State) (f : LiftFn) : u.heldPair = some f ↔ u.input 2 = true ∧ u.activeFns = [f] := by
  unfold State.heldPair
  split
  · rename_i hen
    split
    · rename_i g hg
      simp [hen, hg]
    · rename_i hne
      simp only [hen, true_and, false_iff, reduceCtorEq]
      exact hne f
  · rename_i hen
    simp [hen]

theorem heldPair_eq_none (u : State) : u.heldPair = none ↔ ¬(u.input 2 = true ∧ ∃ f, u.activeFns = [f]) := by
  rw [Option.eq_none_iff_forall_ne_some]
  simp only [Ne, heldPair_eq_some, not_and, not_exists]
  exact ⟨fun h hen f => h f hen, fun h f hen => h hen f⟩

theorem pendantOn_armed {u : State} {f : LiftFn} (i : Fin 16) (hl : u.lines.held = .armed) (h : u.heldPair = some f) :
    u.pendantOn i = (u.setHeld (.held f)).heldBegin f := by
  rw [State.pendantOn, hl]; dsimp only; rw [h]

theorem pendantOn_armed_none {u : State} (i : Fin 16) (hl : u.lines.held = .armed) (h : u.heldPair = none) :
    u.pendantOn i = u := by
  rw [State.pendantOn, hl]; dsimp only; rw [h]

theorem pendantOn_held {u : State} {f : LiftFn} {i : Fin 16} (hl : u.lines.held = .held f) :
    u.pendantOn i = if i = 2 ∨ i = f.input then u else (u.setHeld .spent).heldEnd f := by
  rw [State.pendantOn, hl]

theorem pendantOn_spent {u : State} (i : Fin 16) (hl : u.lines.held = .spent) : u.pendantOn i = u := by
  rw [State.pendantOn, hl]

theorem pendantOff_armed {u : State} (i : Fin 16) (hl : u.lines.held = .armed) :
    u.pendantOff i = if i ≠ 2 ∧ u.heldPair.isSome = true then u.setHeld .spent else u := by
  rw [State.pendantOff, hl]

theorem pendantOff_held {u : State} {f : LiftFn} {i : Fin 16} (hl : u.lines.held = .held f) :
    u.pendantOff i = if i = 2 ∨ i = f.input then (u.setHeld .armed).heldEnd f else u := by
  rw [State.pendantOff, hl]

theorem pendantOff_spent {u : State} (i : Fin 16) (hl : u.lines.held = .spent) :
    u.pendantOff i = if u.input 2 = false ∨ u.activeFns = [] then u.setHeld .armed else u := by
  rw [State.pendantOff, hl]

/-- The filter of a pendant input runs out. -/
theorem exec_filterExpiry_pendant {s : State} {i : Fin 16} (hr : s.straps.role = .lift) (h2 : 2 ≤ i.val)
    (h8 : i.val ≤ 8) (h : s.lines.inputs[i].timer ≠ none) :
    let u := s.setInput i { s.lines.inputs[i] with active := s.lines.inputs[i].closed, timer := none }
    exec (.inputFilterExpiry i) s = .next (finish s
      (if s.lines.inputs[i].closed = true then u.pendantOn i else u.pendantOff i)) := by
  intro u
  have hne (j : Fin 16) (hj : j.val < 2 ∨ 8 < j.val) : i ≠ j := by
    rintro rfl
    omega
  have hp : isPendantInput i = true := (isPendantInput_iff i).2 ⟨h2, h8⟩
  obtain ⟨he, hf⟩ := exec_filterExpiry_plain (hne 0 (by decide)) (hne 9 (by decide)) h
  rw [he, hf, becameActive_lift (u := u) hr (hne 0 (by decide)) (hne 9 (by decide)) (hne 1 (by decide)),
    becameInactive_lift (u := u) hr, if_pos hp, if_pos hp]

/-- Settles O37: the table of the detector, a line per state of it and per way the input goes. -/
theorem heldDetectorFollowsItsTable : Obligations.HeldDetectorFollowsItsTable := by
  unfold Obligations.HeldDetectorFollowsItsTable
  intro s i hr h2 h8 ht x u enabled
  have he := exec_filterExpiry_pendant hr h2 h8 ht
  have hu : u.lines.held = s.lines.held := rfl
  refine ⟨fun hc => ?_, fun hc => ?_⟩
  · have hon : exec (.inputFilterExpiry i) s = .next (finish s (u.pendantOn i)) := he.trans (by rw [if_pos hc])
    refine ⟨fun f hl hen hf => ?_, fun hl hno => ?_, fun f hl hi hif => ?_, fun hl => ?_⟩
    · rw [hon, pendantOn_armed i (hu.trans hl) ((heldPair_eq_some u f).2 ⟨hen, hf⟩)]
    · rw [hon, pendantOn_armed_none i (hu.trans hl) ((heldPair_eq_none u).2 hno)]
    · rw [hon, pendantOn_held (hu.trans hl), if_neg (not_or.2 ⟨hi, hif⟩)]
    · rw [hon, pendantOn_spent i (hu.trans hl)]
  · have hoff : exec (.inputFilterExpiry i) s = .next (finish s (u.pendantOff i)) :=
      he.trans (by rw [if_neg (Bool.eq_false_iff.1 hc)])
    refine ⟨fun f hl hi => ?_, fun hl hi hen hf => ?_, fun hl hno => ?_, fun hl hno => ?_, fun hl hen hf => ?_⟩
    · rw [hoff, pendantOff_held (hu.trans hl), if_pos hi]
    · obtain ⟨f, hf⟩ := hf
      rw [hoff, pendantOff_armed i (hu.trans hl), (heldPair_eq_some u f).2 ⟨hen, hf⟩, if_pos ⟨hi, rfl⟩]
    · rw [hoff, pendantOff_armed i (hu.trans hl), if_neg]
      rintro ⟨hi, hpair⟩
      obtain ⟨f, hf⟩ := Option.isSome_iff_exists.1 hpair
      obtain ⟨hen, hfns⟩ := (heldPair_eq_some u f).1 hf
      rcases hno with h | h | h
      · exact hi h
      · exact h hen
      · exact h f hfns
    · rw [hoff, pendantOff_spent i (hu.trans hl), if_pos hno]
    · rw [hoff, pendantOff_spent i (hu.trans hl), if_neg]
      rintro (h | h)
      · exact Bool.false_ne_true (h.symm.trans hen)
      · exact hf h

/-! ## Driver faults -/

theorem senses_iff (s : State) (o : Fin 12) (k : DriverFault) :
    s.senses o k = true ↔ k = .overCurrent ∨ s.output o ≠ .off := by
  cases k with
  | overCurrent => simp [State.senses]
  | openLoad => simp [State.senses]

theorem channelFault_of_unsensed {s : State} {o : Fin 12} {k : DriverFault} (h : ¬s.senses o k = true) :
    s.channelFault o k = s := by
  unfold State.channelFault
  split
  · rfl
  · rw [if_neg h]

theorem lampFault_of_unsensed {s : State} {o : Fin 12} {k : DriverFault} (h : ¬s.senses o k = true) :
    s.lampFault o k = s := by
  unfold State.lampFault
  split
  · rfl
  · rw [if_neg h]

theorem outputFault_of_unsensed {s : State} {o : Fin 12} {k : DriverFault} (h : ¬s.senses o k = true) :
    s.outputFault o k = s := by
  unfold State.outputFault
  split
  · rw [if_neg h]
  · rfl

theorem channelFault_of_sensed {s : State} {o : Fin 12} {k : DriverFault} {c : Chan} (h : s.senses o k = true)
    (hc : s.straps.role.chanOfOutput o = some c) :
    s.channelFault o k = { s with chans := s.chans.set c { state := .faulted, held := false, settle := none } } := by
  rw [State.channelFault, hc]
  dsimp only
  rw [if_pos h]
  rfl

theorem lampFault_of_sensed {s : State} {o : Fin 12} {k : DriverFault} {g : Group} (h : s.senses o k = true)
    (hg : s.straps.role.groupOfOutput o = some g) :
    s.lampFault o k =
      { s with beacon := s.beacon.set g ((s.beacon.get g).handFault (s.beacon.test == .slot g)) } := by
  rw [State.lampFault, hg]
  dsimp only
  rw [if_pos h]

theorem outputFault_of_sensed {s : State} {o : Fin 12} {k : DriverFault} (h : s.senses o k = true)
    (hc : s.straps.role.chanOfOutput o = none) (hg : s.straps.role.groupOfOutput o = none) :
    s.outputFault o k = { s with lines := { s.lines with outLatch := s.lines.outLatch.set o true } } := by
  rw [State.outputFault, hc, hg]
  dsimp only
  rw [if_pos h]

theorem handFault_eq (x : GroupRec) (inSlot : Bool) : x.handFault inSlot =
    if (x.state = .dark ∨ x.state = .lit ∨ x.state = .tail) ∧ inSlot = false then
      { x with state := .failed, timer := none } else x := by
  unfold GroupRec.handFault
  cases x.state <;> cases inSlot <;> rfl

theorem set_get_self (b : BeaconUnit) (g : Group) : b.set g (b.get g) = b := by
  cases g <;> rfl

/-- Settles O40, by whether the fault is sensed and by what the output belongs to. -/
theorem driverFaultsReachTheirOutputs : Obligations.DriverFaultsReachTheirOutputs := by
  unfold Obligations.DriverFaultsReachTheirOutputs
  intro s o k
  refine ⟨fun hoff hk => ?_, fun hk => ?_⟩
  · have h : ¬s.senses o k = true := by
      rw [senses_iff]
      rintro (h | h)
      · exact absurd (hk.symm.trans h) nofun
      · exact h hoff
    refine ⟨?_, ?_, ?_⟩
    · exact congrArg (fun v => Host.Outcome.next (finish s v)) (channelFault_of_unsensed h)
    · exact congrArg (fun v => Host.Outcome.next (finish s v)) (lampFault_of_unsensed h)
    · exact congrArg (fun v => Host.Outcome.next (finish s v)) (outputFault_of_unsensed h)
  · have h : s.senses o k = true := (senses_iff s o k).2 hk
    refine ⟨fun c hc => ?_, fun g hg => ?_, fun hc hg => ?_⟩
    · exact congrArg (fun v => Host.Outcome.next (finish s v)) (channelFault_of_sensed h hc)
    · intro x acts
      have hlamp : exec (.lampFault o k) s = .next (finish s
          { s with beacon := s.beacon.set g ((s.beacon.get g).handFault (s.beacon.test == .slot g)) }) :=
        congrArg (fun v => Host.Outcome.next (finish s v)) (lampFault_of_sensed h hg)
      refine ⟨fun ha => ?_, fun ha => ?_⟩
      · rw [hlamp, handFault_eq, if_pos (ha.imp_right beq_eq_false_iff_ne.2)]
      · rw [hlamp, handFault_eq, if_neg fun h' => ha (h'.imp_right beq_eq_false_iff_ne.1), set_get_self]
    · exact congrArg (fun v => Host.Outcome.next (finish s v)) (outputFault_of_sensed h hc hg)

/-! ## Settle timers -/

theorem settled_opening {x : ChanRec} (ht : x.settle ≠ none) (h : x.state = .opening) :
    x.settled = { state := .opened, held := false, settle := none } := by
  obtain ⟨n, hn⟩ := Option.ne_none_iff_exists'.1 ht
  rw [ChanRec.settled, hn, h]
  rfl

theorem settled_relieving {x : ChanRec} (ht : x.settle ≠ none) (h : x.state = .relieving) :
    x.settled = { state := .resting, held := false, settle := some 80 } := by
  obtain ⟨n, hn⟩ := Option.ne_none_iff_exists'.1 ht
  rw [ChanRec.settled, hn, h]
  rfl

theorem settled_resting {x : ChanRec} (ht : x.settle ≠ none) (h : x.state = .resting) :
    x.settled = if x.held = true then { state := .opening, held := false, settle := some 60 }
      else { state := .closed, held := false, settle := none } := by
  obtain ⟨n, hn⟩ := Option.ne_none_iff_exists'.1 ht
  rw [ChanRec.settled, hn, h]
  rfl

/-- A command that moves a channel enters the new state with its settle time. -/
theorem command_settle {x y : ChanRec} {cmd : ChanCmd} (h : x.command cmd = some y) (hne : x.state ≠ y.state) :
    (y.state = .opening → y.settle = some 60) ∧ (y.state = .relieving → y.settle = some 120) ∧
      (y.state ≠ .opening → y.state ≠ .relieving → y.settle = none) := by
  unfold ChanRec.command at h
  split at h <;> simp only [Option.some.injEq, Option.ite_none_right_eq_some, reduceCtorEq] at h
  case h_6 => exact absurd (congrArg ChanRec.state h.2) hne
  all_goals
    subst h
    simp_all [ChanRec.enter, openingMs, relievingMs]

/-- Settles O42, by the state of the channel, and by the states a command enters. -/
theorem settleTimersMoveTheChannelOn : Obligations.SettleTimersMoveTheChannelOn := by
  unfold Obligations.SettleTimersMoveTheChannelOn
  refine ⟨fun s c ht => ?_, fun x y cmd h hne => ?_⟩
  · intro move
    have hmove {x : ChanRec} (h : (s.chans.get c).settled = x) : move x :=
      congrArg (fun v => Host.Outcome.next (finish s { s with chans := s.chans.set c v })) h
    refine ⟨fun h => ?_, fun h => ?_, fun h hf => ?_, fun h hf => ?_⟩
    · exact hmove (settled_opening ht h)
    · exact hmove (settled_relieving ht h)
    · exact hmove (by rw [settled_resting ht h, if_neg (Bool.eq_false_iff.1 hf)])
    · exact hmove (by rw [settled_resting ht h, if_pos hf])
  · exact command_settle h hne

end Sys2Proof.Pendant
end

section
/-! O38: the panel of HATCH, whose two latches the run engine takes as one request (R71, R102, R103). -/

namespace Sys2Proof.Panel

open Sys2Proof.Machine Sys2Proof.Laws Sys2Proof.Engines Sys2Proof.BlockLaws Sys2Proof.Entering Sys2Proof.Filters

/-! ## The latches -/

/-- The readers of an input of HATCH that has become active, beside PANEL-STOP and ACKNOWLEDGE. -/
theorem becameActive_hatch {u : State} {i : Fin 16} (hr : u.straps.role = .hatch) (h0 : i ≠ 0) (h1 : i ≠ 1) :
    u.becameActive i = u.panelPress i := by
  have hstop : isStopLoop u.straps.role i ≠ true := by rw [Ne, isStopLoop_iff, hr]; simp [h0]
  rw [State.becameActive, if_neg hstop, if_neg h1, hr]

/-- A button presses its request where the other button of the request is inactive. -/
theorem soleButton_of_pair {u : State} {i j : Fin 16} {isOpen : Bool}
    (hp : (i, j, isOpen) ∈ [((2 : Fin 16), (4 : Fin 16), true), (4, 2, true), (3, 5, false), (5, 3, false)])
    (hj : u.input j = false) : u.soleButton i = true ∧ (i == 2 || i == 4) = isOpen := by
  simp only [List.mem_cons, List.not_mem_nil, or_false, Prod.mk.injEq] at hp
  rcases hp with ⟨rfl, rfl, rfl⟩ | ⟨rfl, rfl, rfl⟩ | ⟨rfl, rfl, rfl⟩ | ⟨rfl, rfl, rfl⟩
  all_goals exact ⟨by simp [State.soleButton, hj], rfl⟩

theorem ne_of_pair {i j : Fin 16} {isOpen : Bool}
    (hp : (i, j, isOpen) ∈ [((2 : Fin 16), (4 : Fin 16), true), (4, 2, true), (3, 5, false), (5, 3, false)]) :
    i ≠ 0 ∧ i ≠ 1 ∧ j ≠ i := by
  simp only [List.mem_cons, List.not_mem_nil, or_false, Prod.mk.injEq] at hp
  rcases hp with ⟨rfl, rfl, rfl⟩ | ⟨rfl, rfl, rfl⟩ | ⟨rfl, rfl, rfl⟩ | ⟨rfl, rfl, rfl⟩
  all_goals decide

/-- A press edge of a request: its filter runs out with the other button inactive (R71). -/
theorem exec_panelPress {s : State} {i j : Fin 16} {isOpen : Bool} (hr : s.straps.role = .hatch)
    (hp : (i, j, isOpen) ∈ [((2 : Fin 16), (4 : Fin 16), true), (4, 2, true), (3, 5, false), (5, 3, false)])
    (ht : s.lines.inputs[i].timer ≠ none) (hc : s.lines.inputs[i].closed = true) (hj : s.input j = false) :
    ∃ t, exec (.inputFilterExpiry i) s = .next t ∧ t.lines = (filtered s i).lines.pressLatch isOpen := by
  obtain ⟨h0, h1, hji⟩ := ne_of_pair hp
  have hraw : rawActive s.straps.role i s.lines.inputs[i].closed = true := by
    rw [rawActive_eq, if_neg (by simp [h0, hr]), hc]
  have hother : (filtered s i).input j = false := by
    rw [State.input, filtered_input, if_neg hji]
    exact hj
  obtain ⟨hsole, hopen⟩ := soleButton_of_pair hp hother
  refine ⟨_, exec_filterExpiry ht, ?_⟩
  rw [if_pos hraw, finish_lines, becameActive_hatch (u := filtered s i) hr h0 h1, State.panelPress, if_pos hsole, hopen]

theorem exec_requestWindow {s : State} (hr : s.straps.role = .hatch) (hw : s.lines.window ≠ none) :
    exec .requestWindowTimer s = .next (finish s s.takeLatches) := by
  obtain ⟨n, hn⟩ := Option.ne_none_iff_exists'.1 hw
  change execRequestWindowTimer s = _
  unfold execRequestWindowTimer
  rw [hr, hn]

/-- The take, by the latches: both of them are a conflict, one of them is its request (R71). -/
theorem takeLatches_eq (s : State) :
    let u : State := { s with lines := { s.lines with openLatch := false, closeLatch := false, window := none } }
    (s.lines.openLatch = true → s.lines.closeLatch = true →
      s.takeLatches = u.writeRequest none .refused .panelConflict) ∧
    (s.lines.openLatch = true → s.lines.closeLatch = false → s.takeLatches = u.touchRequest .openHatch) ∧
    (s.lines.openLatch = false → s.lines.closeLatch = true → s.takeLatches = u.touchRequest .closeHatch) := by
  intro u
  refine ⟨fun ho hc => ?_, fun ho hc => ?_, fun ho hc => ?_⟩
  all_goals
    unfold State.takeLatches
    rw [ho, hc]

/-! ## The request on an IDLE run engine -/

/-- A CLAIM or a YIELD of the node is outstanding (R103). -/
theorem busy_iff (s : State) : (s.outstanding .claim || s.outstanding .yield) = true ↔
    s.outstanding .claim = true ∨ s.outstanding .yield = true := by
  rw [Bool.or_eq_true]

/-- The run unit of a run that has just started (R103). -/
theorem startRun_runs (s : State) (m : Manoeuvre) (f : Option LiftFn) : (s.startRun m f).runs =
    { run := some { base := RunEntry.base m (s.runs.counter + 1) s.straps.side 0, nests := [], phase := .claiming
                    nestCount := 0, leadServed := false
                    mode := if (s.outstanding .claim || s.outstanding .yield) = true then .deferred else .queued
                    claimTag := s.log.tag, runTag := none, ending := none, owesYield := false }
      counter := s.runs.counter + 1, claimWait := some claimWaitMs, fn := f } := by
  unfold State.startRun
  extract_lets busy num s1
  have hruns : (if busy = true then s1 else s1.queueClaim m).runs = s1.runs := by
    split
    · rfl
    · exact queueClaim_runs s1 m
  rw [hruns]

/-- A start on a free node puts the CLAIM of its manoeuvre behind what is pending, and on a busy one nothing (R103). -/
theorem startRun_link {s : State} (hm : s.member.mstate = .member) {m : Manoeuvre} {set : ResSet} {units : Nat}
    (hc : m.claim s.straps.side = some (set, units)) (f : Option LiftFn) : (s.startRun m f).link =
    if s.outstanding .claim = true ∨ s.outstanding .yield = true then s.link
    else { s.link with tx := s.link.tx ++ [{ frame := .claim set units m, attempts := 0, withdrawn := false }] } := by
  unfold State.startRun
  extract_lets busy num s1
  by_cases hb : busy = true
  · rw [if_pos hb, if_pos ((busy_iff s).1 hb)]
  · have hfree : s1.outstanding .claim = false := by
      rw [Bool.eq_false_iff]
      exact fun ho => hb ((busy_iff s).2 (.inl ho))
    have hqueue : s1.queueClaim m = s1.queue (.claim set units m) := by
      unfold State.queueClaim
      rw [show m.claim s1.straps.side = some (set, units) from hc]
    rw [if_neg hb, if_neg (fun ho => hb ((busy_iff s).2 ho)), hqueue, queue_claim hfree hm]

theorem touchRequest_idle {s : State} (hr : s.runs.run = none) (m : Manoeuvre) :
    s.touchRequest m = s.requestIdle m none := by
  rw [State.touchRequest, hr]

theorem requestIdle_not_member {s : State} (h : s.member.mstate ≠ .member) (m : Manoeuvre) (f : Option LiftFn) :
    s.requestIdle m f = s.writeRequest (some m) .refused .notMember := by
  rw [State.requestIdle, if_pos h]

theorem requestIdle_latched {s : State} (h : s.member.mstate = .member) (hl : s.table.halt.latch ≠ none)
    (m : Manoeuvre) (f : Option LiftFn) : s.requestIdle m f = s.writeRequest (some m) .refused .latched := by
  rw [State.requestIdle, if_neg (not_not.2 h), if_pos ((ClaimTable.latched_iff s).2 hl)]

theorem requestIdle_starts {s : State} (h : s.member.mstate = .member) (hl : s.table.halt.latch = none)
    (m : Manoeuvre) (f : Option LiftFn) : s.requestIdle m f = s.startRun m f := by
  rw [State.requestIdle, if_neg (not_not.2 h), if_neg fun h' => (ClaimTable.latched_iff s).1 h' hl]

/-- Settles O38: the press edges, the take of the latches, and the request on an IDLE run engine. -/
theorem hatchRequestsPassTheWindow : Obligations.HatchRequestsPassTheWindow := by
  unfold Obligations.HatchRequestsPassTheWindow
  intro s hrole
  refine ⟨fun i j isOpen hp ht hc hj => ?_, fun hw => ?_, fun m hr => ?_⟩
  · obtain ⟨t, he, hlines⟩ := exec_panelPress hrole hp ht hc hj
    refine ⟨t, he, by rw [hlines]; rfl, by rw [hlines]; rfl, ?_⟩
    rw [hlines]
    change (if (s.lines.openLatch || s.lines.closeLatch) = true then s.lines.window else some windowMs) = _
    cases s.lines.openLatch <;> cases s.lines.closeLatch <;> rfl
  · intro u
    obtain ⟨hboth, hopen, hclose⟩ := takeLatches_eq s
    have he := exec_requestWindow hrole hw
    refine ⟨fun ho hc => ?_, fun ho hc => ?_, fun ho hc => ?_⟩
    · rw [he, hboth ho hc]
    · rw [he, hopen ho hc]
    · rw [he, hclose ho hc]
  · rw [touchRequest_idle hr]
    refine ⟨fun hm => ?_, fun hm hl => ?_, fun hm hl => ?_, fun hm hl hmo => ?_⟩
    · exact requestIdle_not_member hm m none
    · exact requestIdle_latched hm hl m none
    · rw [requestIdle_starts hm hl, startRun_runs]
      refine ⟨_, rfl, rfl, rfl, rfl, rfl, rfl, rfl, rfl, rfl, ?_, rfl, rfl⟩
      exact if_congr (busy_iff s) rfl rfl
    · intro set units
      have hclaim : m.claim s.straps.side = some (set, units) := by
        dsimp only [set]
        rcases hmo with rfl | rfl <;> cases s.straps.side <;> rfl
      rw [requestIdle_starts hm hl, startRun_link hm hclaim]

end Sys2Proof.Panel
end

section
/-! What a step that enters ARMING leaves (R125, R188), and O43: the verdicts of the claim table at the run engine (R105,
R107). -/

namespace Sys2Proof.Verdicts

open Sys2Proof.Machine Sys2Proof.Laws Sys2Proof.Engines

/-! ## Arming -/

/-- The step engine as ARMING is entered (R125). -/
def armedUnit (retries : Nat) (testSkip : Bool) : StepUnit :=
  { StepUnit.none with
    cur := some { state := .arming, gate := .check, testSkip := testSkip, limit := none, noRecord := false, result := none }
    retries := retries }

/-- The record that the current step of a run begins (R188). -/
def stepRec (r : Run) (tag : BitVec 16) (retries : Nat) : LogRec :=
  { kind := .step, run := r.top.num, depth := r.nests.length, man := some r.top.man, idx := some r.top.idx
    outcome := .inProgress, cause := none, retries := retries, startTag := tag, endTag := none, height := none }

theorem openRec_eq {s : State} {r : Run} (hr : s.runs.run = some r) (n : Nat) :
    s.openRec n = s.writeRec (stepRec r s.log.tag n) := by
  unfold State.openRec
  rw [hr]
  rfl

theorem arm_new {s : State} {r : Run} (hr : s.runs.run = some r) (n : Nat) (skip : Bool) :
    s.arm n skip true = (s.setSteps (armedUnit n skip)).writeRec (stepRec r s.log.tag n) := by
  have h : s.arm n skip true = (s.setSteps (armedUnit n skip)).openRec n := rfl
  rw [h, openRec_eq (s := s.setSteps (armedUnit n skip)) hr]
  rfl

theorem arm_old (s : State) (n : Nat) (skip : Bool) : s.arm n skip false = s.setSteps (armedUnit n skip) := rfl

/-- A step that enters ARMING with or without a new record. -/
theorem arm_cond {s : State} {r : Run} (hr : s.runs.run = some r) (n : Nat) (skip new : Bool) : s.arm n skip new =
    if new = true then (s.setSteps (armedUnit n skip)).writeRec (stepRec r s.log.tag n)
    else s.setSteps (armedUnit n skip) := by
  cases new with
  | true => exact arm_new hr n skip
  | false => exact arm_old s n skip

/-- The record of a step of the base (R188). -/
theorem stepRec_base {r : Run} (hn : r.nests = []) (tag : BitVec 16) (retries : Nat) : stepRec r tag retries =
    { kind := .step, run := r.base.num, depth := 0, man := some r.base.man, idx := some r.base.idx
      outcome := .inProgress, cause := none, retries := retries, startTag := tag, endTag := none, height := none } := by
  simp only [stepRec, Run.top, hn]
  rfl

/-! ## Verdicts, by the state of the run engine -/

theorem takeVerdict_idle {s : State} (hr : s.runs.run = none) (v : Verdict) : s.takeVerdict v =
    if v = .appended ∨ v = .granted then s.yieldStray else s := by
  unfold State.takeVerdict
  rw [hr]
  cases v <;> rfl

theorem takeVerdict_claiming {s : State} {r : Run} (hr : s.runs.run = some r) (hp : r.phase = .claiming) :
    s.takeVerdict .granted = (if r.mode = .queued then s.grantRun r else s.yieldStray) ∧
    s.takeVerdict .appended = (if r.mode = .queued then s else s.yieldStray) ∧
    (∀ c, s.takeVerdict (.refused c) = if r.mode = .queued then s.enterEnding .refused (some c) else s) ∧
    s.takeVerdict .removedByYield = s ∧ s.takeVerdict .removedByJoin = s := by
  refine ⟨?_, ?_, fun c => ?_, ?_, ?_⟩
  all_goals
    unfold State.takeVerdict
    rw [hr]
    dsimp only
    rw [hp]

/-- A run under way ends with its record, and reads no other verdict. -/
theorem takeVerdict_underway {s : State} {r : Run} (hr : s.runs.run = some r)
    (hp : r.phase = .running ∨ r.phase = .paused) (v : Verdict) : s.takeVerdict v =
    if v = .removedByYield ∨ v = .removedByJoin then s.enterEnding .failed (some .claimLost) else s := by
  unfold State.takeVerdict
  rw [hr]
  dsimp only
  rcases hp with hp | hp <;> rw [hp] <;> cases v <;> rfl

theorem takeVerdict_ending {s : State} {r : Run} (hr : s.runs.run = some r) (hp : r.phase = .ending) (v : Verdict) :
    s.takeVerdict v = s := by
  unfold State.takeVerdict
  rw [hr]
  dsimp only
  rw [hp]

/-! ## What the verdicts bring about -/

theorem queueYield_pends {s : State} (h : s.member.mstate = .member) : s.queueYield.pends .yield :=
  pends_queue_self .yield (by simp [State.mayQueue, State.withdraw, h])

/-- The grant: the run with its first step in ARMING, after the two records (R105). -/
theorem grantRun_eq {s : State} {r : Run} (hn : r.nests = []) : s.grantRun r =
    { s with
      runs := { s.runs with
        run := some { r with
          mode := .held, phase := .running, runTag := some s.log.tag, base := { r.base with idx := 1 } }
        claimWait := none }
      steps := armedUnit 0 true
      log := ((s.writeRec
        { kind := .claimPhase, run := r.base.num, depth := 0, man := some r.base.man, idx := none, outcome := .done
          cause := none, retries := 0, startTag := r.claimTag, endTag := some s.log.tag, height := none }).writeRec
        { kind := .step, run := r.base.num, depth := 0, man := some r.base.man, idx := some 1, outcome := .inProgress
          cause := none, retries := 0, startTag := s.log.tag, endTag := none, height := none }).log } := by
  unfold State.grantRun
  extract_lets s1 rs entry s2
  have hrun : s2.runs.run = some { r with
      mode := .held, phase := .running, runTag := some s.log.tag, base := { r.base with idx := 1 } } := rfl
  rw [arm_new hrun, stepRec_base (by exact hn)]
  rfl

/-- A run that leaves a claim phase by ENDING takes the outcome with it. -/
theorem enterEnding_run {s : State} {r : Run} (hr : s.runs.run = some r) (o : RunOutcome) (c : Option Cause) :
    ∃ q, (s.enterEnding o c).runs.run = some q ∧ q.phase = .ending ∧ q.ending = some (o, c) ∧ q.base = r.base ∧
      q.nests = r.nests :=
  ⟨_, (enterEnding_spec hr o c).1, rfl, rfl, rfl, rfl⟩

theorem enterEnding_letDown {s : State} {r : Run} (hr : s.runs.run = some r) (o : RunOutcome) (c : Option Cause)
    (x : Chan) : ((s.enterEnding o c).chans.get x).state.letDown = true := by
  rw [(enterEnding_spec hr o c).2.2.2 x]
  exact (after_relieve _).1

theorem enterEnding_cur {s : State} {r : Run} (hr : s.runs.run = some r) (o : RunOutcome) (c : Option Cause) :
    (s.enterEnding o c).steps.cur = none := by
  rw [(enterEnding_spec hr o c).2.2.1]
  rfl

/-- A record that no run uses is yielded once. -/
theorem yieldStray_cases (s : State) : (s.outstanding .yield = true → s.yieldStray = s) ∧
    (s.outstanding .yield = false → s.yieldStray = s.queueYield) := by
  unfold State.yieldStray
  exact ⟨fun h => if_pos h, fun h => if_neg (Bool.eq_false_iff.1 h)⟩

/-- IDLE or DEFERRED, a record that is appended or granted is a stray one, and the others say nothing. -/
theorem takeVerdict_stray {s : State} (h : s.runs.run = none ∨
    ∃ r, s.runs.run = some r ∧ r.phase = .claiming ∧ r.mode = .deferred) (v : Verdict) :
    s.takeVerdict v = if v = .appended ∨ v = .granted then s.yieldStray else s := by
  rcases h with h | ⟨r, hr, hp, hm⟩
  · exact takeVerdict_idle h v
  · obtain ⟨hgranted, happended, hrefused, hyield, hjoin⟩ := takeVerdict_claiming hr hp
    have hq : ¬r.mode = .queued := fun h => nomatch hm.symm.trans h
    cases v with
    | granted => rw [hgranted, if_neg hq, if_pos (.inr rfl)]
    | appended => rw [happended, if_neg hq, if_pos (.inl rfl)]
    | refused c => rw [hrefused, if_neg hq]; rfl
    | removedByYield => exact hyield
    | removedByJoin => exact hjoin

/-- Settles O43, by the state the run engine is in. -/
theorem verdictsReachTheRunEngine : Obligations.VerdictsReachTheRunEngine := by
  unfold Obligations.VerdictsReachTheRunEngine
  intro s
  refine ⟨fun r hr hp hm hn => ?_, fun v h => ?_, fun r hr hp => ?_, fun r v hr hp => takeVerdict_ending hr hp v⟩
  · obtain ⟨hgranted, happended, hrefused, -, -⟩ := takeVerdict_claiming hr hp
    intro t granted first
    refine ⟨?_, fun c => ?_, ?_⟩
    · have ht : t = _ := (hgranted.trans (if_pos hm)).trans (grantRun_eq hn)
      rw [ht]
      exact ⟨rfl, ⟨_, rfl, rfl, rfl⟩, rfl, rfl, rfl, writeRec_youngest _ _⟩
    · rw [hrefused, if_pos hm]
      obtain ⟨q, hq, hqp, hqe, -, -⟩ := enterEnding_run hr .refused (some c)
      exact ⟨q, hq, hqp, hqe⟩
    · rw [happended, if_pos hm]
  · rw [takeVerdict_stray h]
    refine ⟨fun hv => ?_, fun hv => ?_⟩
    · rw [if_pos hv]
      obtain ⟨hout, hnot⟩ := yieldStray_cases s
      exact ⟨hout, fun ho => ⟨hnot ho, fun hmem => by rw [hnot ho]; exact queueYield_pends hmem⟩⟩
    · rw [if_neg]
      rcases hv with ⟨c, rfl⟩ | rfl | rfl <;> nofun
  · refine ⟨fun c => ?_, fun v hv => ?_⟩
    · exact (takeVerdict_underway hr hp _).trans (if_neg nofun)
    · rw [takeVerdict_underway hr hp, if_pos hv]
      obtain ⟨q, hq, hqp, hqe, -, -⟩ := enterEnding_run hr .failed (some .claimLost)
      exact ⟨q, hq, hqp, hqe, enterEnding_cur hr _ _, enterEnding_letDown hr _ _⟩

end Sys2Proof.Verdicts
end

section
/-! O44: what steers a run in progress (R102 to R116): the requests, the waits and the entry into ENDING. -/

namespace Sys2Proof.Requests

open Sys2Proof.Machine Sys2Proof.Laws Sys2Proof.Engines Sys2Proof.Panel Sys2Proof.Verdicts

/-! ## The CLAIM of a manoeuvre -/

/-- The pending CLAIM of a manoeuvre, if it has one (R86, R87). -/
def claimEntries (side : Side) (m : Manoeuvre) : List TxEntry :=
  match m.claim side with
  | some (set, units) => [{ frame := .claim set units m, attempts := 0, withdrawn := false }]
  | none => []

theorem claimEntries_of {side : Side} {m : Manoeuvre} {set : ResSet} {units : Nat}
    (h : m.claim side = some (set, units)) :
    claimEntries side m = [{ frame := .claim set units m, attempts := 0, withdrawn := false }] := by
  rw [claimEntries, h]

/-- A MEMBER with no CLAIM outstanding has the CLAIM of a manoeuvre behind what is pending (R14, R87). -/
theorem queueClaim_eq {s : State} (hm : s.member.mstate = .member) (hfree : s.outstanding .claim = false)
    (m : Manoeuvre) : s.queueClaim m =
      { s with link := { s.link with tx := s.link.tx ++ claimEntries s.straps.side m } } := by
  unfold State.queueClaim claimEntries
  cases m.claim s.straps.side with
  | none => simp only [List.append_nil]
  | some claim => exact queue_claim hfree hm claim.1 claim.2 m

theorem claim_of_fn (f : LiftFn) (side : Side) : ∃ set units, f.manoeuvre.claim side = some (set, units) := by
  cases f <;> exact ⟨_, _, rfl⟩

/-! ## The waits -/

theorem exec_claimWait {s : State} {r : Run} (hr : s.runs.run = some r) (hp : r.phase = .claiming)
    (hw : s.runs.claimWait ≠ none) : exec .claimWaitTimer s = .next (finish s (s.enterEnding .lapsed none)) := by
  obtain ⟨n, hn⟩ := Option.ne_none_iff_exists'.1 hw
  change execClaimWaitTimer s = _
  unfold execClaimWaitTimer
  rw [hn, hr]
  dsimp only
  rw [if_pos hp]

theorem exec_claimWait_idle {s : State} (h : ∀ r, s.runs.run = some r → r.phase ≠ .claiming) :
    exec .claimWaitTimer s = .next (finish s s) := by
  change execClaimWaitTimer s = _
  unfold execClaimWaitTimer
  split
  · rename_i r _ hr
    rw [if_neg (h r hr)]
  · rfl

theorem exec_pause {s : State} {r : Run} (hr : s.runs.run = some r) (hp : r.phase = .paused)
    (hw : s.steps.pause ≠ none) : exec .pauseTimer s = .next (finish s (s.enterEnding .lapsed none)) := by
  obtain ⟨n, hn⟩ := Option.ne_none_iff_exists'.1 hw
  change execPauseTimer s = _
  unfold execPauseTimer
  rw [hn, hr]
  dsimp only
  rw [if_pos hp]

theorem exec_pause_idle {s : State} (h : ∀ r, s.runs.run = some r → r.phase ≠ .paused) :
    exec .pauseTimer s = .next (finish s s) := by
  change execPauseTimer s = _
  unfold execPauseTimer
  split
  · rename_i r _ hr
    rw [if_neg (h r hr)]
  · rfl

/-! ## Held requests and touch requests, by the state of the run -/

theorem heldEnd_idle {s : State} (hr : s.runs.run = none) (f : LiftFn) : s.heldEnd f = s := by
  rw [State.heldEnd, hr]

theorem heldEnd_of_run {s : State} {r : Run} (hr : s.runs.run = some r) (f : LiftFn) : s.heldEnd f =
    if s.runs.fn = some f then
      (if r.phase = .claiming then s.enterEnding .stopped none else if r.phase = .running then s.pauseRun r else s)
    else s := by
  rw [State.heldEnd, hr]
  dsimp only
  cases hp : r.phase <;> rfl

theorem heldBegin_idle {s : State} (hr : s.runs.run = none) (f : LiftFn) :
    s.heldBegin f = s.requestIdle f.manoeuvre (some f) := by
  rw [State.heldBegin, hr]

theorem heldBegin_of_run {s : State} {r : Run} (hr : s.runs.run = some r) (f : LiftFn) : s.heldBegin f =
    if r.phase = .ending then s.writeRequest (some f.manoeuvre) .refused .busy
    else if r.phase = .paused then
      (if s.runs.fn = some f then s.resumeRun r else s.switchTo f.manoeuvre (some f))
    else s := by
  rw [State.heldBegin, hr]
  dsimp only
  cases hp : r.phase <;> rfl

theorem touchRequest_of_run {s : State} {r : Run} (hr : s.runs.run = some r) (m : Manoeuvre) : s.touchRequest m =
    if r.phase = .ending then s.writeRequest (some m) .refused .busy
    else if r.phase = .paused then s
    else if m = r.base.man then s.enterEnding .stopped none else s.switchTo m none := by
  rw [State.touchRequest, hr]
  dsimp only
  cases hp : r.phase <;> simp only [reduceCtorEq, if_false, if_true, eq_comm]

theorem pauseRun_eq {s : State} {c : CurStep} (hc : s.steps.cur = some c) (r : Run) : s.pauseRun r =
    (s.holdDriving.setRun { r with phase := .paused }).setSteps
      { s.steps.only { c with state := .paused } with pause := some pauseMs } := by
  rw [State.pauseRun, hc]

theorem resumeRun_eq {s : State} {c : CurStep} (hc : s.steps.cur = some c) (r : Run) : s.resumeRun r =
    (s.setRun { r with phase := .running }).arm s.steps.retries true c.noRecord := by
  rw [State.resumeRun, hc]

/-- HELD-END of the run function pauses a run (R115). -/
theorem heldEnd_running {s : State} {r : Run} {c : CurStep} {f : LiftFn} (hr : s.runs.run = some r)
    (hf : s.runs.fn = some f) (hp : r.phase = .running) (hc : s.steps.cur = some c) : s.heldEnd f =
    (s.holdDriving.setRun { r with phase := .paused }).setSteps
      { s.steps.only { c with state := .paused } with pause := some pauseMs } := by
  rw [heldEnd_of_run hr, if_pos hf, if_neg (by rw [hp]; nofun), if_pos hp, pauseRun_eq hc]

/-- HELD-BEGIN of the run function resumes a paused run (R116). -/
theorem heldBegin_paused {s : State} {r : Run} {c : CurStep} {f : LiftFn} (hr : s.runs.run = some r)
    (hf : s.runs.fn = some f) (hp : r.phase = .paused) (hc : s.steps.cur = some c) : s.heldBegin f =
    (s.setRun { r with phase := .running }).arm s.steps.retries true c.noRecord := by
  rw [heldBegin_of_run hr, if_neg (by rw [hp]; nofun), if_pos hp, if_pos hf, resumeRun_eq hc]

/-! ## Entering ENDING -/

/-- A change of the open record that leaves it IN-PROGRESS leaves the count of such records. -/
theorem changeOpen_openCount (s : State) {f : LogRec → LogRec}
    (hf : ∀ x : LogRec, x.outcome = .inProgress → (f x).outcome = .inProgress) :
    (s.changeOpen f).log.openCount = s.log.openCount := by
  unfold LogUnit.openCount State.changeOpen
  dsimp only
  rw [List.filter_map, List.length_map]
  congr 2
  funext x
  by_cases hx : x.data.outcome = .inProgress
  · simp only [Function.comp_apply, hx, if_true, hf x.data hx]
  · simp only [Function.comp_apply, hx, if_false]

theorem enterEnding_log {s : State} {r : Run} (hr : s.runs.run = some r) (o : RunOutcome) (c : Option Cause) :
    (s.enterEnding o c).log = (s.closeRec o none).log := by
  rw [State.enterEnding, hr]
  rfl

theorem enterEnding_openCount {s : State} {r : Run} (hr : s.runs.run = some r) (o : RunOutcome) (c : Option Cause) :
    (s.enterEnding o c).log.openCount = if o = .inProgress then s.log.openCount else 0 := by
  rw [enterEnding_log hr]
  split
  · rename_i ho
    subst ho
    exact changeOpen_openCount s fun x hx => rfl
  · rename_i ho
    exact closeRec_openCount s o none ho

/-- Settles O44: the CLAIM that is queued, the events of a run by its state, those of an IDLE run engine, and the entry
into ENDING. -/
theorem requestsAndWaitsSteerARun : Obligations.RequestsAndWaitsSteerARun := by
  unfold Obligations.RequestsAndWaitsSteerARun
  intro s claims claimOf
  have hclaimOf (m : Manoeuvre) : claimOf m = claimEntries s.straps.side m := by
    dsimp only [claimOf, claims]
    cases m <;> cases s.straps.side <;> rfl
  refine ⟨fun m hm hfree => ?_, fun r hr => ?_, fun hr f => ?_, exec_claimWait_idle, exec_pause_idle,
    fun r o c hr => ?_⟩
  · rw [hclaimOf, queueClaim_eq hm hfree]
  · have hend := heldEnd_of_run hr
    have hbegin := heldBegin_of_run hr
    refine ⟨exec_claimWait hr, exec_pause hr, fun f hf => ⟨fun hp => ?_, fun c hp hc => ?_, fun c hp hc => ?_⟩,
      fun f h => ?_, fun f hf hp => ?_, fun f h => ?_, fun m h => ?_, fun hp => ⟨fun f => ?_, fun m => ?_⟩⟩
    · rw [hend, if_pos hf, if_pos hp]
    · intro t
      have ht : t = _ := heldEnd_running hr hf hp hc
      rw [ht]
      exact ⟨rfl, rfl, rfl, rfl, holdDriving_get s⟩
    · obtain ⟨hruns, hchans, hlink, hsteps, hlog⟩ :=
        arm_spec (s.setRun { r with phase := .running }) s.steps.retries true c.noRecord
      intro t
      have ht : t = _ := heldBegin_paused hr hf hp hc
      rw [ht]
      refine ⟨hruns, hchans, hlink, hsteps, fun hrec => ?_⟩
      rw [hlog, if_neg (Bool.eq_false_iff.1 hrec)]
      rfl
    · rw [hend]
      rcases h with h | h | h
      · exact if_neg h
      · rw [h]; exact ite_self s
      · rw [h]; exact ite_self s
    · rw [hbegin, if_neg (by rw [hp]; nofun), if_pos hp, if_neg hf]
    · rw [hbegin]
      rcases h with h | h <;> rw [h] <;> rfl
    · rw [touchRequest_of_run hr]
      rcases h with h | h <;> rw [h] <;> rfl
    · rw [hbegin, if_pos hp]
    · rw [touchRequest_of_run hr, if_pos hp]
  · rw [heldEnd_idle hr, heldBegin_idle hr]
    refine ⟨rfl, fun hm => ?_, fun hm hl => ?_, fun hm hl => ?_⟩
    · exact requestIdle_not_member hm _ _
    · exact requestIdle_latched hm hl _ _
    · obtain ⟨set, units, hc⟩ := claim_of_fn f s.straps.side
      rw [requestIdle_starts hm hl, startRun_runs, startRun_link hm hc, hclaimOf, claimEntries_of hc]
      exact ⟨_, rfl, rfl, rfl, rfl, rfl, if_congr (busy_iff s) rfl rfl, rfl⟩
  · exact ⟨enterEnding_run hr o c, enterEnding_cur hr o c, (enterEnding_spec hr o c).2.1, enterEnding_letDown hr o c,
      enterEnding_openCount hr o c, enterEnding_log hr o c⟩

end Sys2Proof.Requests
end

section
/-! O45: a switch (R118 to R120), and the moves of a run that is CLAIMING (R104, R120). -/

namespace Sys2Proof.Switching

open Sys2Proof.Machine Sys2Proof.Laws Sys2Proof.Engines Sys2Proof.Verdicts

/-! ## The three ways of a switch -/

/-- The node with the old stack ended SWITCHED and no channel driving (R118). -/
def atSwitch (s : State) (r : Run) : State :=
  ((s.closeRec .switched none).writePhaseEnd r .switched none).holdDriving

/-- The run that a switch makes, waiting for its claim (R119). -/
def switchedRun (s : State) (r : Run) (m : Manoeuvre) : Run :=
  { base := RunEntry.base m (s.runs.counter + 1) s.straps.side 0, nests := [], phase := .claiming, nestCount := 0
    leadServed := false, mode := r.mode, claimTag := s.log.tag, runTag := none, ending := none, owesYield := r.owesYield }

/-- The run that a switch leaves RUNNING with the claim it holds (R119). -/
def keptRun (s : State) (r : Run) (m : Manoeuvre) : Run :=
  { switchedRun s r m with
    base := RunEntry.base m (s.runs.counter + 1) s.straps.side 1, phase := .running, leadServed := r.leadServed
    runTag := some s.log.tag, owesYield := false }

/-- A switch that keeps a HELD claim, before the first step enters ARMING. -/
def keptSwitch (s : State) (r : Run) (m : Manoeuvre) (f : Option LiftFn) : State :=
  { atSwitch s r with runs :=
    { run := some (keptRun s r m), counter := s.runs.counter + 1, claimWait := none, fn := f } }

theorem atSwitch_chans (s : State) (r : Run) (x : Chan) : (atSwitch s r).chans.get x =
    if (s.chans.get x).state.isDriving = true then { state := .holding, held := false, settle := none }
    else s.chans.get x :=
  holdDriving_get _ x

theorem atSwitch_log (s : State) (r : Run) : (atSwitch s r).log = ((s.closeRec .switched none).writeRec
    { kind := .claimPhase, run := r.base.num, depth := 0, man := some r.base.man, idx := none, outcome := .switched
      cause := none, retries := 0, startTag := r.runTag.getD r.claimTag, endTag := some s.log.tag, height := none }).log :=
  rfl

theorem atSwitch_link (s : State) (r : Run) : (atSwitch s r).link = s.link := by
  simp only [atSwitch, State.writePhaseEnd, State.closeRec, State.changeOpen, State.holdDriving, writeRec_link]

theorem atSwitch_table (s : State) (r : Run) : (atSwitch s r).table = s.table := by
  simp only [atSwitch, State.writePhaseEnd, State.closeRec, State.changeOpen, State.holdDriving, writeRec_table]

theorem switchTo_held {s : State} {r : Run} (hr : s.runs.run = some r) {m : Manoeuvre}
    (hk : keepsClaim s.straps.side r.base.man m = true) (hm : r.mode = .held) (f : Option LiftFn) :
    s.switchTo m f = ((keptSwitch s r m f).relieveUnnamed m).arm 0 true true := by
  unfold State.switchTo
  rw [hr]
  exact (if_pos (by exact hk)).trans (if_pos hm)

theorem switchTo_waiting {s : State} {r : Run} (hr : s.runs.run = some r) {m : Manoeuvre}
    (hk : keepsClaim s.straps.side r.base.man m = true) (hm : r.mode ≠ .held) (f : Option LiftFn) :
    s.switchTo m f = { atSwitch s r with
      runs := { run := some (switchedRun s r m), counter := s.runs.counter + 1, claimWait := some claimWaitMs, fn := f }
      steps := StepUnit.none } := by
  unfold State.switchTo
  rw [hr]
  exact (if_pos (by exact hk)).trans (if_neg hm)

theorem switchTo_remade {s : State} {r : Run} (hr : s.runs.run = some r) {m : Manoeuvre}
    (hk : ¬keepsClaim s.straps.side r.base.man m = true) (f : Option LiftFn) :
    s.switchTo m f = { (atSwitch s r).relieveAll with
      runs :=
        { run := some { switchedRun s r m with mode := .deferred, owesYield := true }
          counter := s.runs.counter + 1, claimWait := some claimWaitMs, fn := f }
      steps := StepUnit.none } := by
  unfold State.switchTo
  rw [hr]
  exact if_neg (by exact hk)

/-- A switch that keeps a HELD claim (R119): the base is RUNNING with its first step in ARMING. -/
theorem switchTo_held_eq {s : State} {r : Run} (hr : s.runs.run = some r) {m : Manoeuvre}
    (hk : keepsClaim s.straps.side r.base.man m = true) (hm : r.mode = .held) (f : Option LiftFn) :
    ∃ u, s.switchTo m f = State.writeRec { keptSwitch s r m f with chans := u, steps := armedUnit 0 true }
        (stepRec (keptRun s r m) s.log.tag 0) ∧
      ∀ x, u.get x = if ∃ d ∈ m.steps s.straps.side, d.chan = x then (atSwitch s r).chans.get x
        else ((atSwitch s r).chans.get x).after .relieve := by
  obtain ⟨u, hu, hget⟩ := relieveUnnamed_spec (keptSwitch s r m f) m
  refine ⟨u, ?_, hget⟩
  rw [switchTo_held hr hk hm, hu, arm_new (r := keptRun s r m) rfl]
  rfl

/-- A switch sends nothing and leaves the claim table. -/
theorem switchTo_frame {s : State} {r : Run} (hr : s.runs.run = some r) (m : Manoeuvre) (f : Option LiftFn) :
    (s.switchTo m f).link = s.link ∧ (s.switchTo m f).table = s.table := by
  by_cases hk : keepsClaim s.straps.side r.base.man m = true
  · by_cases hm : r.mode = .held
    · obtain ⟨u, ht, -⟩ := switchTo_held_eq hr hk hm f
      rw [ht, writeRec_link, writeRec_table]
      exact ⟨atSwitch_link s r, atSwitch_table s r⟩
    · rw [switchTo_waiting hr hk hm f]
      exact ⟨atSwitch_link s r, atSwitch_table s r⟩
  · rw [switchTo_remade hr hk f]
    exact ⟨atSwitch_link s r, atSwitch_table s r⟩

/-! ## The moves of a run that is CLAIMING -/

theorem engineMove_claiming {s : State} {r : Run} (hr : s.runs.run = some r) (hp : r.phase = .claiming) :
    engineMove s =
      if r.owesYield = true then
        (if s.settled = true then some ((s.setRun { r with owesYield := false }).queueYield) else none)
      else if r.mode = .deferred ∧ s.outstanding .claim = false ∧ s.outstanding .yield = false then
        some ((s.setRun { r with mode := .queued }).queueClaim r.base.man)
      else none := by
  rw [engineMove_of_not_running hr (by rw [hp]; nofun), runMove, hr]
  dsimp only
  rw [hp]

/-- Settles O45: a switch in its three ways, and what a CLAIMING run does of itself. -/
theorem switchKeepsOrRemakesTheClaim : Obligations.SwitchKeepsOrRemakesTheClaim := by
  unfold Obligations.SwitchKeepsOrRemakesTheClaim
  refine ⟨fun s r m f hr => ?_, fun s r hr hp => ?_⟩
  · intro t side keeps entry fresh switched first log held
    have hkeeps : keepsClaim side r.base.man m = true ↔ keeps := keepsClaim_iff side r.base.man m
    have hheld (x : Chan) : (atSwitch s r).chans.get x = held x := atSwitch_chans s r x
    obtain ⟨hlink, htable⟩ := switchTo_frame hr m f
    refine ⟨hlink, htable, fun hk hm => ?_, fun hk hm => ?_, fun hk => ?_⟩
    · obtain ⟨u, hswitch, hget⟩ := switchTo_held_eq hr (hkeeps.2 hk) hm f
      have ht : t = _ := hswitch
      rw [ht]
      refine ⟨rfl, rfl, rfl, fun x => ?_⟩
      rw [← hheld]
      exact hget x
    · have ht : t = _ := switchTo_waiting hr (hkeeps.2 hk) hm f
      rw [ht]
      exact ⟨rfl, rfl, rfl, hheld⟩
    · have ht : t = _ := switchTo_remade hr (mt hkeeps.1 hk) f
      rw [ht]
      refine ⟨rfl, rfl, rfl, fun x => ?_⟩
      rw [← hheld]
      exact each_get _ _ _
  · intro settled traffic
    have hmove := engineMove_claiming hr hp
    have hsettled : s.settled = true ↔ settled := settled_iff s
    have htraffic (k : Kind) : s.outstanding k = true ↔ traffic k := outstanding_iff s k
    refine ⟨fun ho hs => ?_, fun ho hs => ?_, fun ho hm hc hy => ?_, fun ho h => ?_⟩
    · rw [hmove, if_pos ho, if_pos (hsettled.2 hs)]
      rfl
    · rw [hmove, if_pos ho, if_neg (mt hsettled.1 hs)]
    · rw [hmove, if_neg (Bool.eq_false_iff.1 ho), if_pos ⟨hm, Bool.eq_false_iff.2 (mt (htraffic _).1 hc),
        Bool.eq_false_iff.2 (mt (htraffic _).1 hy)⟩]
      rfl
    · rw [hmove, if_neg (Bool.eq_false_iff.1 ho), if_neg]
      rintro ⟨hm, hc, hy⟩
      rcases h with h | h | h
      · exact h hm
      · exact Bool.false_ne_true (hc.symm.trans ((htraffic _).2 h))
      · exact Bool.false_ne_true (hy.symm.trans ((htraffic _).2 h))

end Sys2Proof.Switching
end

section
/-! O46: how entries come onto the run stack and leave it (R108 to R113, R121, R122). -/

namespace Sys2Proof.StackEntries

open Sys2Proof.Machine Sys2Proof.Laws Sys2Proof.Engines Sys2Proof.BlockLaws Sys2Proof.Verdicts

/-! ## Nesting -/

theorem covers_iff (a b : ResSet) : a.covers b = true ↔ (b.pump = true → a.pump = true) ∧
    (b.rear = true → a.rear = true) ∧ (b.kerb = true → a.kerb = true) ∧ (b.road = true → a.road = true) := by
  have himp (x y : Bool) : (x || !y) = true ↔ (y = true → x = true) := by cases x <;> cases y <;> decide
  simp only [ResSet.covers, Bool.and_eq_true, himp, and_assoc]

/-- The entry below a nest as it is suspended (R122). -/
def belowNest (s : State) (r : Run) : RunEntry :=
  { r.top with resume := some r.top.idx, kept := s.steps.retries
               nest := if r.nests = [] then none else some .suspended }

/-- The entry of a nest (R122). -/
def nestEntry (s : State) (r : Run) (m : Manoeuvre) : RunEntry :=
  { man := m, num := s.runs.counter + 1, origin := .nest, idx := 1, left := (m.steps s.straps.side).length
    back := some r.top.num, resume := none, kept := 0, nest := some .walking }

/-- The run with a nest on top (R122). -/
def nestedRun (s : State) (r : Run) (m : Manoeuvre) : Run :=
  if r.nests = [] then { r with base := belowNest s r, nests := [nestEntry s r m], nestCount := r.nestCount + 1 }
  else { r with nests := nestEntry s r m :: belowNest s r :: r.nests.tail, nestCount := r.nestCount + 1 }

theorem nestedRun_eq (s : State) (r : Run) (m : Manoeuvre) : nestedRun s r m =
    { r.setTop (belowNest s r) with
      nests := nestEntry s r m :: (r.setTop (belowNest s r)).nests, nestCount := r.nestCount + 1 } := by
  unfold nestedRun Run.setTop
  cases hn : r.nests with
  | nil => rw [if_pos rfl]
  | cons e rest => rw [if_neg (List.cons_ne_nil e rest)]; rfl

/-- The record of a nest's first step (R188). -/
theorem stepRec_nested (s : State) (r : Run) (m : Manoeuvre) (tag : BitVec 16) (retries : Nat) :
    stepRec (nestedRun s r m) tag retries =
      { kind := .step, run := s.runs.counter + 1, depth := r.nests.length + 1, man := some m, idx := some 1
        outcome := .inProgress, cause := none, retries := retries, startTag := tag, endTag := none, height := none } := by
  have htop : (nestedRun s r m).top = nestEntry s r m := by rw [nestedRun_eq]; rfl
  have hlen : (nestedRun s r m).nests.length = r.nests.length + 1 := by
    rw [nestedRun_eq]
    exact congrArg (· + 1) (RunStack.setTop_nests_length r _)
  rw [stepRec, htop, hlen]
  rfl

/-- The nest is made (R122). -/
theorem makeNest_eq (s : State) (r : Run) (d : StepDef) (m : Manoeuvre) : s.makeNest r d m =
    State.writeRec { (s.command d.chan .hold).closeRec .nested none with
      runs := { s.runs with run := some (nestedRun s r m), counter := s.runs.counter + 1 }
      steps := armedUnit 0 true } (stepRec (nestedRun s r m) s.log.tag 0) := by
  have hbelow : belowNest s r =
      { r.top with resume := some r.top.idx, kept := s.steps.retries
                   nest := if r.nests.isEmpty then none else some .suspended } := by
    simp only [belowNest, List.isEmpty_iff]
  have hmake : s.makeNest r d m = State.arm { (s.command d.chan .hold).closeRec .nested none with
      runs := { s.runs with run := some (nestedRun s r m), counter := s.runs.counter + 1 } } 0 true true := by
    rw [nestedRun_eq, hbelow]
    rfl
  rw [hmake, arm_new (r := nestedRun s r m) rfl]
  rfl

theorem nestTrigger_limit {s : State} {r : Run} (h : r.nestCount = 3) (c : CurStep) (d : StepDef) (m : Manoeuvre) :
    s.nestTrigger r c d m = s.failStep c d .nestLimit true := by
  rw [State.nestTrigger, if_pos h]

theorem nestTrigger_refused {s : State} {r : Run} {m : Manoeuvre} (h : r.nestCount ≠ 3)
    (hr : 2 ≤ r.nests.length ∨ ¬s.baseSet.covers m.needs = true) (c : CurStep) (d : StepDef) :
    s.nestTrigger r c d m = s.failStep c d .nestRefused true := by
  rw [State.nestTrigger, if_neg h]
  split
  · rfl
  · rename_i hlen
    rw [if_neg (hr.resolve_left hlen)]

theorem nestTrigger_made {s : State} {r : Run} {m : Manoeuvre} (h : r.nestCount ≠ 3) (hlen : r.nests.length < 2)
    (hc : s.baseSet.covers m.needs = true) (c : CurStep) (d : StepDef) :
    s.nestTrigger r c d m = s.makeNest r d m := by
  rw [State.nestTrigger, if_neg h, if_neg (by omega), if_pos hc]

/-! ## The outcome of an ended step -/

theorem engineMove_of_step {s t : State} (h : stepMove s = some t) : engineMove s = some t := by
  rw [engineMove, h]

theorem engineMove_of_result {s : State} {r : Run} {c : CurStep} {o : RunOutcome} {cause : Option Cause}
    (hr : s.runs.run = some r) (hp : r.phase = .running) (hc : s.steps.cur = some c) (ho : c.result = some (o, cause)) :
    engineMove s = some (s.takeOutcome r o cause) := by
  refine engineMove_of_step ?_
  rw [stepMove, hr, hc]
  dsimp only
  rw [if_pos hp, ho]

theorem setTop_setTop (r : Run) (e x : RunEntry) : (r.setTop e).setTop x = r.setTop x := by
  obtain ⟨base, nests, phase, count, lead, mode, ctag, rtag, ending, owes⟩ := r
  cases nests <;> rfl

theorem setTop_of_base {r : Run} (hn : r.nests = []) (e : RunEntry) : r.setTop e = { r with base := e } := by
  rw [Run.setTop, hn]

theorem setTop_of_nest {r : Run} {x : RunEntry} {rest : List RunEntry} (hn : r.nests = x :: rest) (e : RunEntry) :
    r.setTop e = { r with nests := e :: rest } := by
  rw [Run.setTop, hn]

theorem top_of_nest {r : Run} {x : RunEntry} {rest : List RunEntry} (hn : r.nests = x :: rest) : r.top = x := by
  rw [Run.top, hn]
  rfl

theorem takeOutcome_failed (s : State) (r : Run) (cause : Option Cause) :
    s.takeOutcome r .failed cause = s.failTop r cause := rfl

/-- A step before the last gives way to the next (R108). -/
theorem takeOutcome_next {s : State} {r : Run} {o : RunOutcome} (ho : o ≠ .failed) (hl : 1 < r.top.left)
    (cause : Option Cause) : s.takeOutcome r o cause =
      (s.setRun (r.setTop { r.top with left := r.top.left - 1, idx := r.top.idx + 1 })).arm 0 true true := by
  unfold State.takeOutcome
  rw [if_neg ho]
  dsimp only
  rw [if_neg (by omega), setTop_setTop]

/-- The last step completes the top entry (R108). -/
theorem takeOutcome_last {s : State} {r : Run} {o : RunOutcome} (ho : o ≠ .failed) (hl : r.top.left ≤ 1)
    (cause : Option Cause) : s.takeOutcome r o cause =
      (s.setRun (r.setTop { r.top with left := r.top.left - 1 })).completeTop
        (r.setTop { r.top with left := r.top.left - 1 }) := by
  unfold State.takeOutcome
  rw [if_neg ho]
  exact if_pos hl

theorem completeTop_base {r : Run} (hn : r.nests = []) (s : State) : s.completeTop r = s.enterEnding .complete none := by
  rw [State.completeTop, hn]

theorem failTop_base {r : Run} (hn : r.nests = []) (s : State) (cause : Option Cause) :
    s.failTop r cause = s.enterEnding .failed cause := by
  rw [State.failTop, hn]

/-- The entry below a nest that has left, walking again where it is a nest itself (R110, R111). -/
def backOn (q : Run) : RunEntry :=
  { q.top with resume := none, nest := if q.nests = [] then none else some .walking }

theorem completeTop_nest {r : Run} {x : RunEntry} {rest : List RunEntry} (hn : r.nests = x :: rest) (s : State) :
    s.completeTop r =
      let q : Run := { r with nests := rest }
      (s.setRun (q.setTop { backOn q with idx := q.top.resume.getD q.top.idx })).arm q.top.kept true true := by
  rw [State.completeTop, hn]
  cases rest <;> rfl

theorem failTop_nest {r : Run} {x : RunEntry} {rest : List RunEntry} (hn : r.nests = x :: rest) {s : State}
    {d : StepDef} (hd : s.stepOf ({ r with nests := rest } : Run).top = some d) (cause : Option Cause) :
    s.failTop r cause =
      let q : Run := { r with nests := rest }
      State.failStep
        { s with runs := { s.runs with run := some (q.setTop (backOn q)) }
                 steps := { StepUnit.none with retries := q.top.kept } }
        { state := .closing, gate := .check, testSkip := false, limit := none, noRecord := true, result := none } d
        .nestedFailed (cause != some .driverFault) := by
  have hrest : (if rest.isEmpty then none else some NestState.walking) = if rest = [] then none else some .walking := by
    cases rest <;> rfl
  rw [State.failTop, hn]
  dsimp only
  rw [hrest]
  rw [show ∀ x, (s.setRun x).stepOf ({ r with nests := rest } : Run).top = some d from fun _ => hd]
  rfl

/-! ## Leaving ENDING -/

theorem endingMode_eq (s : State) (m : ClaimMode) : s.endingMode m = match m with
    | .queued =>
      if s.ownGranted = true then .held
      else if s.ownRecord ≠ none ∨ s.outstanding .claim = true then .queued
      else .none
    | .held => if s.ownGranted = true then .held else .none
    | .deferred | .none => .none := by
  cases m with
  | queued =>
    unfold State.endingMode
    simp only [Bool.or_eq_true, Option.isSome_iff_ne_none]
  | held | deferred | none => rfl

theorem engineMove_ending {s : State} {r : Run} (hr : s.runs.run = some r) (hp : r.phase = .ending) :
    engineMove s =
      if s.settled = true then some (s.leaveEnding r)
      else if s.endingMode r.mode = r.mode then none
      else some (s.setRun { r with mode := s.endingMode r.mode }) := by
  rw [engineMove_of_not_running hr (by rw [hp]; nofun), runMove, hr]
  dsimp only
  rw [hp]

/-- The stack that leaves ENDING (R113). -/
theorem leaveEnding_eq {s : State} {r : Run} {o : RunOutcome} {cause : Option Cause} (he : r.ending = some (o, cause)) :
    s.leaveEnding r =
      State.emptyStack (State.writePhaseEnd
        { s with link := (if s.outstanding .yield = true then s else s.queueYield).link } r o cause) := by
  have hlink : (if s.outstanding .yield = true then s else s.queueYield) =
      { s with link := (if s.outstanding .yield = true then s else s.queueYield).link } := by
    split
    · rfl
    · exact queue_eq _ _
  rw [← hlink, State.leaveEnding, he]
  rfl

/-- Settles O46: the nest trigger, the outcome of an ended step, and the moves in ENDING. -/
theorem stackEntriesAreMadeAndLeave : Obligations.StackEntriesAreMadeAndLeave := by
  unfold Obligations.StackEntriesAreMadeAndLeave
  refine ⟨fun s r c d m hr => ?_, fun s r c o cause hr hp hc ho => ?_, fun s r o cause hr hp he => ?_⟩
  · intro set covered t below entry
    have hcov : s.baseSet.covers m.needs = true ↔ covered := covers_iff _ _
    refine ⟨fun h => nestTrigger_limit h c d m, fun h hn => ?_, fun h hlen hcv => ?_⟩
    · exact nestTrigger_refused h (hn.imp_right (mt hcov.1)) c d
    · have ht : t = _ := (nestTrigger_made h hlen (hcov.2 hcv) c d).trans (makeNest_eq s r d m)
      rw [ht]
      refine ⟨rfl, rfl, ?_, rfl, fun x => command_get s d.chan x .hold⟩
      rw [stepRec_nested]
      rfl
  · have hmove := engineMove_of_result hr hp hc ho
    refine ⟨fun hf hl => ?_, fun hf hl hn => ?_, fun hf hn => ?_, fun e rest hn => ?_⟩
    · rw [hmove, takeOutcome_next hf hl]
    · rw [hmove, takeOutcome_last hf hl, completeTop_base]
      rw [setTop_of_base hn]
      exact hn
    · rw [hmove, hf, takeOutcome_failed, failTop_base hn]
    · intro q under
      refine ⟨fun hf hl => ?_, fun d hf hd => ?_⟩
      · rw [hmove, takeOutcome_last hf (by rw [top_of_nest hn]; exact hl), setTop_of_nest hn, completeTop_nest rfl]
        rfl
      · rw [hmove, hf, takeOutcome_failed, failTop_nest hn hd]
        rfl
  · intro settled
    have hmove := engineMove_ending hr hp
    have hsettled : s.settled = true ↔ settled := settled_iff s
    refine ⟨fun hs => ⟨_, hmove.trans (if_pos (hsettled.2 hs)), ?_⟩, fun hs => ?_⟩
    · rw [leaveEnding_eq he]
      exact ⟨rfl, rfl, rfl, rfl, rfl⟩
    · intro mode
      have hmode : s.endingMode r.mode = mode := endingMode_eq s r.mode
      rw [hmove, if_neg (mt hsettled.1 hs), hmode]
      rfl

end Sys2Proof.StackEntries
end

section
/-! O47: the step timers (R90, R128 to R134), and a step that fails (R136, R188). -/

namespace Sys2Proof.StepTimers

open Sys2Proof.Machine Sys2Proof.Laws Sys2Proof.Engines Sys2Proof.Verdicts

/-! ## The timers of a walked step -/

section

variable {s : State} {r : Run} {c : CurStep} {d : StepDef}

theorem exec_lead (hw : s.walked = some (r, c, d)) (ht : s.steps.lead ≠ none) (hc : c.state = .leading) :
    exec .leadTimer s = .next (finish s ((s.setRun { r with leadServed := true }).enterOpening c d)) := by
  obtain ⟨n, hn⟩ := Option.ne_none_iff_exists'.1 ht
  change execLeadTimer s = _
  unfold execLeadTimer
  rw [hn, hw]
  dsimp only
  rw [if_pos hc]
  rfl

theorem exec_recovery (hw : s.walked = some (r, c, d)) (ht : s.steps.recovery ≠ none) :
    exec .recoveryTimer s = .next (finish s (s.recoveryOut c d)) := by
  obtain ⟨n, hn⟩ := Option.ne_none_iff_exists'.1 ht
  change execRecoveryTimer s = _
  unfold execRecoveryTimer
  rw [hn, hw]

theorem recoveryOut_arming (hc : c.state = .arming) : s.recoveryOut c d = s.failStep c d .interlockLost true := by
  rw [State.recoveryOut, hc]

theorem recoveryOut_stalled (hc : c.state = .stalled) : s.recoveryOut c d =
    s.failStep c d (if s.interlock d = true then .noPressure else .interlockLost) true := by
  rw [State.recoveryOut, hc]

theorem exec_priming (hw : s.walked = some (r, c, d)) (ht : s.steps.priming ≠ none) (hc : c.state = .priming) :
    exec .primingTimer s = .next (finish s (s.failStep c d .noPressure true)) := by
  obtain ⟨n, hn⟩ := Option.ne_none_iff_exists'.1 ht
  change execPrimingTimer s = _
  unfold execPrimingTimer
  rw [hn, hw]
  dsimp only
  rw [if_pos hc]

theorem driveCounts_iff : s.driveCounts c d = true ↔
    c.state = .driving ∧ (s.chans.get d.chan).state = .driving d.dir := by
  simp only [State.driveCounts, Bool.and_eq_true, beq_iff_eq]

theorem exec_driveLimit (hw : s.walked = some (r, c, d)) {ms : Nat} (hl : c.limit = some ms)
    (hd : s.driveCounts c d = true) :
    exec .driveLimit s = .next (finish s ((s.setDriveTime ms).failStep c d .limit true)) := by
  change execDriveLimit s = _
  unfold execDriveLimit
  rw [hw]
  dsimp only
  rw [hl]
  dsimp only
  rw [if_pos hd]

theorem exec_driveTimeEnd (hw : s.walked = some (r, c, d)) {ms : Nat} (hl : d.driveTimeEnd = some ms)
    (hd : s.driveCounts c d = true) :
    exec .driveTimeEnd s = .next (finish s ((s.setDriveTime ms).stepDone c d)) := by
  change execDriveTimeEnd s = _
  unfold execDriveTimeEnd
  rw [hw]
  dsimp only
  rw [hl]
  dsimp only
  rw [if_pos hd]

end

/-! ## A step that fails -/

/-- The outcome of a failed step by its on-fail (R136). -/
def failOutcome (d : StepDef) : RunOutcome :=
  match d.onFail with
  | .abort => .failed
  | .skip => .failedSkipped

theorem failOutcome_ne (d : StepDef) : failOutcome d ≠ .inProgress := by
  unfold failOutcome
  cases d.onFail <;> nofun

section

variable (s : State) (c : CurStep) (d : StepDef) (cause : Cause) (retryable : Bool)

/-- The step is retried (R136). -/
theorem failStep_retried (hr : retryable = true) (hn : s.steps.retries < d.retries) :
    s.failStep c d cause retryable =
      ((s.command d.chan .relieve).changeOpen fun x => { x with retries := s.steps.retries + 1 }).setSteps
        { s.steps.only { c with state := .closing } with retries := s.steps.retries + 1 } := by
  unfold State.failStep
  exact if_pos ⟨hr, hn⟩

/-- The step ends, with a record begun for it where it has none after NESTED-FAILED (R136, R188). -/
theorem failStep_ended (h : retryable = false ∨ d.retries ≤ s.steps.retries) :
    s.failStep c d cause retryable =
      State.stepEnds
        (if c.noRecord = true ∧ cause = .nestedFailed then
          ((s.command d.chan .relieve).openRec s.steps.retries).closeRec (failOutcome d) (some cause)
        else (s.command d.chan .relieve).closeRec (failOutcome d) (some cause)) c (failOutcome d) (some cause) := by
  have hn : ¬(retryable = true ∧ s.steps.retries < d.retries) := by
    rintro ⟨hr, hlt⟩
    rcases h with h | h
    · exact Bool.false_ne_true (h.symm.trans hr)
    · omega
  unfold State.failStep
  exact if_neg hn

theorem openRec_steps (n : Nat) : (s.openRec n).steps = s.steps := by
  unfold State.openRec
  split <;> rfl

/-- The step engine and the log of a step that ends failed. -/
theorem failStep_ended_steps (h : retryable = false ∨ d.retries ≤ s.steps.retries) :
    (s.failStep c d cause retryable).steps =
      s.steps.only { c with state := .ended, result := some (failOutcome d, some cause) } := by
  rw [failStep_ended s c d cause retryable h]
  split
  · exact congrArg (fun u : StepUnit => u.only _) (openRec_steps (s.command d.chan .relieve) _)
  · rfl

theorem failStep_ended_log (h : retryable = false ∨ d.retries ≤ s.steps.retries) :
    (s.failStep c d cause retryable).log = if c.noRecord = true ∧ cause = .nestedFailed then
      (((s.command d.chan .relieve).openRec s.steps.retries).closeRec (failOutcome d) (some cause)).log
      else (s.closeRec (failOutcome d) (some cause)).log := by
  rw [failStep_ended s c d cause retryable h]
  split <;> rfl

theorem failStep_ended_openCount (h : retryable = false ∨ d.retries ≤ s.steps.retries) :
    (s.failStep c d cause retryable).log.openCount = 0 := by
  rw [failStep_ended_log s c d cause retryable h]
  split
  · exact closeRec_openCount _ _ _ (failOutcome_ne d)
  · exact closeRec_openCount _ _ _ (failOutcome_ne d)

/-- A failed step leaves no timer but those of its channel. -/
theorem failStep_timers : (s.failStep c d cause retryable).steps.recovery = none ∧
    (s.failStep c d cause retryable).steps.priming = none ∧ (s.failStep c d cause retryable).steps.lead = none := by
  by_cases h : retryable = true ∧ s.steps.retries < d.retries
  · rw [failStep_retried s c d cause retryable h.1 h.2]
    exact ⟨rfl, rfl, rfl⟩
  · have hend : retryable = false ∨ d.retries ≤ s.steps.retries := by
      rw [not_and_or, Bool.not_eq_true, not_lt] at h
      exact h
    rw [failStep_ended_steps s c d cause retryable hend]
    exact ⟨rfl, rfl, rfl⟩

theorem failStep_get (x : Chan) : (s.failStep c d cause retryable).chans.get x =
    if x = d.chan then (s.chans.get x).after .relieve else s.chans.get x := by
  rw [failStep_chans]
  exact command_get s d.chan x .relieve

end

/-- Settles O47: each timer in the step state that reads it, and the two ways of a step that fails. -/
theorem stepTimersAndFailuresMoveTheStep : Obligations.StepTimersAndFailuresMoveTheStep := by
  unfold Obligations.StepTimersAndFailuresMoveTheStep
  refine ⟨fun s r c d hw => ⟨exec_lead hw, fun ht hc => ?_, fun ht hc => ?_, exec_priming hw,
    fun ms hl hc hx => exec_driveLimit hw hl (driveCounts_iff.2 ⟨hc, hx⟩),
    fun ms hl hc hx => exec_driveTimeEnd hw hl (driveCounts_iff.2 ⟨hc, hx⟩)⟩, fun s c d cause retryable => ?_⟩
  · rw [exec_recovery hw ht, recoveryOut_arming hc]
  · rw [exec_recovery hw ht, recoveryOut_stalled hc]
  · intro t
    have hget := failStep_get s c d cause retryable
    obtain ⟨hrecovery, hpriming, hlead⟩ := failStep_timers s c d cause retryable
    refine ⟨?_, fun x hx => ?_, congrArg RunUnit.run (failStep_runs s c d cause retryable), hrecovery, hpriming, hlead,
      fun hr hn => ?_, fun h => ?_⟩
    · rw [hget, if_pos rfl]
      exact (after_relieve _).1
    · rw [hget, if_neg hx]
    · have ht : t = _ := failStep_retried s c d cause retryable hr hn
      rw [ht]
      exact ⟨rfl, rfl, rfl⟩
    · intro o
      have ho : o = failOutcome d := rfl
      have hsteps : t.steps = _ := failStep_ended_steps s c d cause retryable h
      have hlog : t.log = _ := failStep_ended_log s c d cause retryable h
      refine ⟨?_, ?_, failStep_ended_openCount s c d cause retryable h, fun hrec => ?_, fun r hr hrec hcause => ?_⟩
      · rw [hsteps]
        rfl
      · rw [hsteps]
        rfl
      · rw [hlog, if_neg, ho]
        rintro ⟨hno, hcause⟩
        rcases hrec with hrec | hrec
        · exact Bool.false_ne_true (hrec.symm.trans hno)
        · exact hrec hcause
      · rw [hlog, if_pos ⟨hrec, hcause⟩, openRec_eq (s := s.command d.chan .relieve) hr, ho]
        rfl

end Sys2Proof.StepTimers
end

section
/-! O48: the moves of the step engine with a walked step (R125 to R139), and how a step stands where there is none. -/

namespace Sys2Proof.StepMoves

open Sys2Proof.Machine Sys2Proof.Laws Sys2Proof.Engines Sys2Proof.Verdicts Sys2Proof.StackEntries

/-! ## The readings of a move -/

theorem holdsChannel_iff (x : StepState) : x.holdsChannel = true ↔
    x = .opening ∨ x = .priming ∨ x = .driving ∨ x = .stalled := by
  cases x <;> simp [StepState.holdsChannel]

theorem clearWay_iff (s : State) (d : StepDef) : s.clearWay d = true ↔ s.interlock d = true ∧ s.stopPressed = false := by
  rw [State.clearWay, Bool.and_eq_true, Bool.not_eq_true']

theorem othersClosed_iff (s : State) (c : Chan) : s.othersClosed c = true ↔
    ∀ y, y ≠ c → (s.chans.get y).state = .closed := by
  simp only [State.othersClosed, List.all_eq_true, Bool.or_eq_true, beq_iff_eq]
  exact ⟨fun h y hy => (h y (by cases y <;> decide)).resolve_left hy, fun h y _ => or_iff_not_imp_left.2 (h y)⟩

theorem triggerHolds_iff (s : State) (d : StepDef) (m : Manoeuvre) : s.triggerHolds d = some m ↔
    ∃ q v, d.nest = some (q, v, m) ∧ s.cond q = v := by
  unfold State.triggerHolds
  cases hn : d.nest with
  | none => simp
  | some x =>
    obtain ⟨q, v, k⟩ := x
    simp only [Option.ite_none_right_eq_some, Option.some.injEq, Prod.mk.injEq]
    constructor
    · rintro ⟨hc, rfl⟩
      exact ⟨q, v, ⟨rfl, rfl, rfl⟩, hc⟩
    · rintro ⟨_, _, ⟨rfl, rfl, rfl⟩, hc⟩
      exact ⟨hc, rfl⟩

/-- The interlock or the pressure of a step in DRIVING is lost (R134). -/
def lost (s : State) (d : StepDef) : Prop := s.interlock d = false ∨ (d.powered = true ∧ s.pressure = false)

theorem lost_iff (s : State) (d : StepDef) : (!s.interlock d || (d.powered && !s.pressure)) = true ↔ lost s d := by
  rw [Bool.or_eq_true, Bool.and_eq_true, Bool.not_eq_true', Bool.not_eq_true', lost]

/-! ## A walked step that has not ended -/

section

variable {s : State} {r : Run} {c : CurStep} {d : StepDef}

theorem stepMove_of_walked (hw : s.walked = some (r, c, d)) (hn : c.result = none) : stepMove s =
    if (s.chans.get d.chan).state = .faulted then some (s.failStep c d .driverFault false)
    else if c.state.holdsChannel = true ∧ (s.chans.get d.chan).state = .relieving then
      some (s.failStep c d .channelRefused true)
    else s.plainMove r c d := by
  obtain ⟨hr, hc, hp, hd⟩ := walked_spec hw
  rw [stepMove, hr, hc]
  dsimp only
  rw [if_pos hp, hn]
  dsimp only
  rw [hd]

/-- The step engine's own move is the next move (R108). -/
theorem engineMove_of_plain (hw : s.walked = some (r, c, d)) (hn : c.result = none)
    (hf : (s.chans.get d.chan).state ≠ .faulted)
    (hrel : ¬(c.state.holdsChannel = true ∧ (s.chans.get d.chan).state = .relieving)) :
    engineMove s = s.plainMove r c d := by
  rw [engineMove_of_walked hw hn, if_neg hf, if_neg hrel]

/-! ### ARMING -/

theorem plainMove_arming (hc : c.state = .arming) : s.plainMove r c d = s.armingMove r c d := by
  rw [State.plainMove, hc]

theorem startRecovery_idle (h : s.steps.recovery = none) :
    s.startRecovery = some { s with steps := { s.steps with recovery := some 2000 } } := by
  rw [State.startRecovery, h]
  rfl

theorem startRecovery_none (h : s.startRecovery = none) : s.steps.recovery ≠ none := fun hn =>
  nomatch (startRecovery_idle hn).symm.trans h

theorem armingMove_check (hg : c.gate = .check) : s.armingMove r c d =
    some (if d.fence = true then (s.relieveOthers d.chan).toGate c .fence else s.toGate c .skip) := by
  rw [State.armingMove, hg]

theorem armingMove_fence (hg : c.gate = .fence) : s.armingMove r c d =
    if s.othersClosed d.chan = true then some (s.toGate c .skip) else s.startRecovery := by
  rw [State.armingMove, hg]

/-- The skip-if of a step holds where it is tested (R126). -/
def skips (s : State) (c : CurStep) (d : StepDef) : Prop :=
  c.testSkip = true ∧ ∃ q v, d.skipIf = some (q, v) ∧ s.cond q = v

theorem armingMove_skip (hg : c.gate = .skip) (h : skips s c d) : s.armingMove r c d = some (s.stepSkipped c) := by
  obtain ⟨ht, q, v, hq, hv⟩ := h
  rw [State.armingMove, hg]
  dsimp only
  rw [hq]
  dsimp only
  rw [if_pos (by rw [ht, hv, beq_self_eq_true]; rfl)]

theorem armingMove_no_skip (hg : c.gate = .skip) (h : ¬skips s c d) : s.armingMove r c d = some (s.toGate c .way) := by
  rw [State.armingMove, hg]
  dsimp only
  split
  · rename_i q v hq
    rw [if_neg]
    intro ht
    rw [Bool.and_eq_true, beq_iff_eq] at ht
    exact h ⟨ht.1, q, v, hq, ht.2⟩
  · rfl

theorem armingMove_way (hg : c.gate = .way) : s.armingMove r c d =
    if s.clearWay d = true then some (s.leaveArming r c d) else s.startRecovery := by
  rw [State.armingMove, hg]

/-- The channel that a step in OPENING opens (R130). -/
theorem enterOpening_eq : s.enterOpening c d =
    { s with
      steps := s.steps.only { c with state := .opening }
      chans := match (s.chans.get d.chan).state with
        | .closed => s.chans.set d.chan { state := .opening, held := false, settle := some 60 }
        | .resting => s.chans.set d.chan { s.chans.get d.chan with held := true }
        | _ => s.chans } := by
  have hafter (y : ChanRec) : (y.state = .closed → y.after .openCmd = { state := .opening, held := false, settle := some 60 }) ∧
      (y.state = .resting → y.after .openCmd = { y with held := true }) := by
    refine ⟨fun h => ?_, fun h => ?_⟩
    all_goals
      unfold ChanRec.after ChanRec.command
      rw [h]
      rfl
  have hget : ((s.stepTo c .opening).chans.get d.chan) = s.chans.get d.chan := rfl
  unfold State.enterOpening
  cases hx : (s.chans.get d.chan).state with
  | closed =>
    dsimp only [State.command]
    rw [hget, (hafter _).1 hx]
    rfl
  | resting =>
    dsimp only [State.command]
    rw [hget, (hafter _).2 hx]
    rfl
  | opening | opened | driving x | holding | relieving | faulted => rfl

/-! ### LEADING, OPENING and PRIMING -/

/-- A step whose way is lost before it drives returns to ARMING (R125). -/
theorem plainMove_lost_way (hc : c.state = .leading ∨ c.state = .opening ∨ c.state = .priming)
    (hw : ¬s.clearWay d = true) : s.plainMove r c d = some (s.setSteps (armedUnit s.steps.retries false)) := by
  rw [State.plainMove]
  rcases hc with hc | hc | hc
  all_goals
    rw [hc]
    dsimp only
    rw [if_neg hw]
    rfl

theorem plainMove_opening (hc : c.state = .opening) (hw : s.clearWay d = true)
    (hx : (s.chans.get d.chan).state = .opened ∨ (s.chans.get d.chan).state = .holding) :
    s.plainMove r c d = some (s.stepTo c (if d.powered = true then .priming else .driving)) := by
  rw [State.plainMove, hc]
  dsimp only
  rw [if_pos hw]
  rcases hx with hx | hx <;> rw [hx]

theorem plainMove_priming (hc : c.state = .priming) (hw : s.clearWay d = true) :
    (s.pressure = true → s.plainMove r c d = some (s.stepTo c .driving)) ∧
    (s.pressure = false → s.steps.priming = none →
      s.plainMove r c d = some { s with steps := { s.steps with priming := some 3000 } }) := by
  refine ⟨fun hp => ?_, fun hp ht => ?_⟩
  · rw [State.plainMove, hc]
    dsimp only
    rw [if_pos hw, if_pos hp]
  · rw [State.plainMove, hc]
    dsimp only
    rw [if_pos hw, if_neg (Bool.eq_false_iff.1 hp), ht]
    rfl

/-! ### DRIVING -/

theorem plainMove_driving (hc : c.state = .driving) : s.plainMove r c d = s.drivingMove r c d := by
  rw [State.plainMove, hc]

theorem drivingMove_ended (h : s.endHolds d s.steps.driveTime = true) : s.drivingMove r c d = some (s.stepDone c d) := by
  rw [State.drivingMove, if_pos h]

theorem drivingMove_fires {m : Manoeuvre} (he : ¬s.endHolds d s.steps.driveTime = true) (hm : s.triggerHolds d = some m) :
    s.drivingMove r c d = some (s.nestTrigger r c d m) := by
  rw [State.drivingMove, if_neg he, hm]

theorem drivingMove_lost (he : ¬s.endHolds d s.steps.driveTime = true) (hm : s.triggerHolds d = none) (hl : lost s d) :
    s.drivingMove r c d = some (s.stallStep c d) := by
  rw [State.drivingMove, if_neg he, hm]
  dsimp only
  rw [if_pos ((lost_iff s d).2 hl)]

/-- A step that keeps its way and its pressure drives its channel (R132). -/
theorem drivingMove_on (he : ¬s.endHolds d s.steps.driveTime = true) (hm : s.triggerHolds d = none) (hl : ¬lost s d) :
    s.drivingMove r c d =
      if (s.chans.get d.chan).state = .driving d.dir then none
      else if (s.chans.get d.chan).state = .opened ∨ (s.chans.get d.chan).state = .holding then some (s.driveStep c d)
      else some (s.failStep c d .channelRefused true) := by
  rw [State.drivingMove, if_neg he, hm]
  dsimp only
  rw [if_neg (mt (lost_iff s d).1 hl)]
  cases (s.chans.get d.chan).state with
  | driving x => simp only [ChanState.driving.injEq, reduceCtorEq, or_self, if_false]
  | opened | holding => rfl
  | closed | opening | relieving | resting | faulted => rfl

/-- DRIVE reaches a channel that is OPEN or HOLDING (R142). -/
theorem after_drive {y : ChanRec} (h : y.state = .opened ∨ y.state = .holding) (x : Dir) :
    y.after (.drive x) = { state := .driving x, held := false, settle := none } := by
  unfold ChanRec.after ChanRec.command
  rcases h with h | h <;> rw [h] <;> rfl

/-! ### STALLED and CLOSING -/

theorem plainMove_stalled (hc : c.state = .stalled) : (lost s d → s.plainMove r c d = none) ∧
    (¬lost s d → s.plainMove r c d = some (s.stepTo c .driving)) := by
  have hiff : (s.interlock d && (!d.powered || s.pressure)) = true ↔ ¬lost s d := by
    rw [← lost_iff]
    cases s.interlock d <;> cases d.powered <;> cases s.pressure <;> decide
  rw [State.plainMove, hc]
  dsimp only
  exact ⟨fun h => if_neg fun h' => hiff.1 h' h, fun h => if_pos (hiff.2 h)⟩

theorem plainMove_closing (hc : c.state = .closing) (hx : (s.chans.get d.chan).state = .closed) :
    s.plainMove r c d = some (s.arm s.steps.retries true c.noRecord) := by
  rw [State.plainMove, hc]
  exact if_pos hx

end

end Sys2Proof.StepMoves
end

section
/-! O48: the step engine's moves within an event, each of them, and the steps that rest. -/

namespace Sys2Proof.StepEngine

open Sys2Proof.Machine Sys2Proof.Laws Sys2Proof.Engines Sys2Proof.Verdicts Sys2Proof.StackEntries Sys2Proof.StepMoves

/-- The engine moves of an event go on while one is enabled (assumption 23). -/
theorem settle_facts (n : Nat) (s : State) : settle 0 s = s ∧ (engineMove s = none → settle n s = s) ∧
    (∀ t, engineMove s = some t → settle (n + 1) s = settle n (State.noteChange s t)) ∧
    (∀ t, stepMove s = some t → engineMove s = some t) ∧ (stepMove s = none → engineMove s = runMove s) :=
  ⟨rfl, fun h => settle_of_none h n, fun _ h => settle_of_move h n, fun _ h => engineMove_of_step h, fun h => by
    rw [engineMove, h]⟩

section

variable {s : State} {r : Run} {c : CurStep} {d : StepDef}

/-- The channel check of ARMING (R126, R127). -/
theorem check_moves (hc : c.state = .arming) (hg : c.gate = .check) :
    ∃ chans, s.plainMove r c d = some { s with
        steps := { s.steps with cur := some { c with gate := if d.fence = true then .fence else .skip } }
        chans := chans } ∧
      ∀ y, chans.get y =
        if d.fence = true ∧ y ≠ d.chan ∧ (s.chans.get y).state.letDown = false then
          { state := .relieving, held := false, settle := some 120 }
        else s.chans.get y := by
  rw [plainMove_arming hc, armingMove_check hg]
  by_cases hf : d.fence = true
  · obtain ⟨u, hu, hget⟩ := relieveOthers_spec s d.chan
    refine ⟨u, ?_, fun y => ?_⟩
    · rw [if_pos hf, if_pos hf, hu]
      rfl
    · simp only [hf, true_and]
      exact hget y
  · refine ⟨s.chans, ?_, fun y => (if_neg fun h => hf h.1).symm⟩
    rw [if_neg hf, if_neg hf]
    rfl

/-- The clear way of ARMING (R126). -/
theorem way_moves (hc : c.state = .arming) (hg : c.gate = .way) :
    s.plainMove r c d = if s.clearWay d = true then some (s.leaveArming r c d) else s.startRecovery := by
  rw [plainMove_arming hc, armingMove_way hg]

theorem leaveArming_owed (h : d.lead = true ∧ r.leadServed = false ∧ r.nests = []) : s.leaveArming r c d =
    s.setSteps { s.steps.only { c with state := .leading } with lead := some s.fitRow.lead } := by
  rw [State.leaveArming, if_pos h]

theorem leaveArming_open (h : ¬(d.lead = true ∧ r.leadServed = false ∧ r.nests = [])) :
    s.leaveArming r c d = s.enterOpening c d := by
  rw [State.leaveArming, if_neg h]

/-- The limit is read once (R132). -/
theorem driveStep_eq (hx : (s.chans.get d.chan).state = .opened ∨ (s.chans.get d.chan).state = .holding) :
    s.driveStep c d = { s with
      steps := s.steps.only { c with limit := if c.limit = none then s.limitOf d else c.limit }
      chans := s.chans.set d.chan { state := .driving d.dir, held := false, settle := none } } := by
  have hlimit : (match c.limit with | some x => some x | none => s.limitOf d) =
      if c.limit = none then s.limitOf d else c.limit := by
    cases c.limit <;> rfl
  unfold State.driveStep State.command
  rw [after_drive hx, ← hlimit]
  rfl

/-! ## The steps that rest -/

/-- A step at which the engine rests has no failure and no plain move. -/
theorem rests (hw : s.walked = some (r, c, d)) (hn : c.result = none) (h : stepMove s = none) :
    (s.chans.get d.chan).state ≠ .faulted ∧ s.plainMove r c d = none := by
  rw [stepMove_of_walked hw hn] at h
  by_cases hf : (s.chans.get d.chan).state = .faulted
  · rw [if_pos hf] at h
    exact nomatch h
  · rw [if_neg hf] at h
    by_cases hrel : c.state.holdsChannel = true ∧ (s.chans.get d.chan).state = .relieving
    · rw [if_pos hrel] at h
      exact nomatch h
    · rw [if_neg hrel] at h
      exact ⟨hf, h⟩

/-- A step rests in LEADING, OPENING or PRIMING with a clear way alone. -/
theorem way_of_rest (h : s.plainMove r c d = none) (hc : c.state = .leading ∨ c.state = .opening ∨ c.state = .priming) :
    s.clearWay d = true := by
  by_contra hw
  exact nomatch (plainMove_lost_way hc hw).symm.trans h

/-- A step rests in DRIVING as it drives its channel, with nothing to end it (R132). -/
theorem driving_of_rest (h : s.plainMove r c d = none) (hc : c.state = .driving) :
    ¬s.endHolds d s.steps.driveTime = true ∧ s.triggerHolds d = none ∧ ¬lost s d ∧
      (s.chans.get d.chan).state = .driving d.dir := by
  rw [plainMove_driving hc] at h
  have he : ¬s.endHolds d s.steps.driveTime = true := fun he => nomatch (drivingMove_ended he).symm.trans h
  have hm : s.triggerHolds d = none := by
    rw [Option.eq_none_iff_forall_ne_some]
    exact fun m hm => nomatch (drivingMove_fires he hm).symm.trans h
  have hl : ¬lost s d := fun hl => nomatch (drivingMove_lost he hm hl).symm.trans h
  refine ⟨he, hm, hl, ?_⟩
  by_contra hx
  rw [drivingMove_on he hm hl, if_neg hx] at h
  split at h <;> exact nomatch h

/-- A step rests in ARMING at a gate, with the recovery window running (R127, R128). -/
theorem arming_of_rest (h : s.plainMove r c d = none) (hc : c.state = .arming) : s.steps.recovery ≠ none := by
  rw [plainMove_arming hc] at h
  refine startRecovery_none ?_
  cases hg : c.gate with
  | check => exact nomatch (armingMove_check hg).symm.trans h
  | fence =>
    rw [armingMove_fence hg] at h
    split at h
    · exact nomatch h
    · exact h
  | skip =>
    by_cases hs : skips s c d
    · exact nomatch (armingMove_skip hg hs).symm.trans h
    · exact nomatch (armingMove_no_skip hg hs).symm.trans h
  | way =>
    rw [armingMove_way hg] at h
    split at h
    · exact nomatch h
    · exact h

theorem not_lost_iff : ¬lost s d ↔ s.interlock d = true ∧ (d.powered = true → s.pressure = true) := by
  unfold lost
  cases s.interlock d <;> cases d.powered <;> cases s.pressure <;> simp

end

/-- Settles O48: the moves of an event, a walked step in each of its states, and the steps that rest. -/
theorem stepEngineMovesOrRests : Obligations.StepEngineMovesOrRests := by
  unfold Obligations.StepEngineMovesOrRests
  refine ⟨fun old s => ⟨finish_of_none, fun v => finish_of_move⟩, settle_facts, fun s r c d hw hn => ?_,
    fun s r c d hmove hw hn => ?_⟩
  · obtain ⟨hr, -, -, -⟩ := walked_spec hw
    have hmove := engineMove_of_walked hw hn
    intro x clear watched at_ armed told moves gate waits ends
    have hway : s.clearWay d = true ↔ clear := clearWay_iff s d
    have hwatched : c.state.holdsChannel = true ↔ watched := holdsChannel_iff c.state
    have hwaits (h : engineMove s = s.startRecovery) : waits := fun hrec => h.trans (startRecovery_idle hrec)
    refine ⟨fun hf => ?_, fun hwat hx => ?_, fun hf hrel => ?_⟩
    · rw [hmove, if_pos hf]
    · rw [hmove, if_neg (by rw [show (s.chans.get d.chan).state = .relieving from hx]; nofun),
        if_pos ⟨hwatched.2 hwat, hx⟩]
    · have hplain : engineMove s = s.plainMove r c d :=
        engineMove_of_plain hw hn hf fun h => hrel ⟨hwatched.1 h.1, h.2⟩
      refine ⟨fun hc hg => ?_, fun hc hg => ?_, fun hc hg => ?_, fun hc hg => ?_, fun hc hw => ?_, fun hc hw hx => ?_,
        fun hc hw => ⟨fun hp => ?_, fun hp ht => ?_⟩, fun hc => ?_, fun hc hi hp => ?_, fun hc hx => ?_⟩
      · obtain ⟨chans, hchans, hget⟩ := check_moves (s := s) (r := r) (d := d) hc hg
        exact ⟨chans, hplain.trans hchans, hget⟩
      · intro shut
        have hgate := hplain.trans ((plainMove_arming hc).trans (armingMove_fence hg))
        refine ⟨fun h => hgate.trans (if_pos ((othersClosed_iff s d.chan).2 h)), fun h => ?_⟩
        exact hwaits (hgate.trans (if_neg (mt (othersClosed_iff s d.chan).1 h)))
      · intro skips
        have hgate := hplain.trans (plainMove_arming hc)
        refine ⟨fun h => ⟨_, hgate.trans (armingMove_skip hg h), ?_⟩, fun h => hgate.trans (armingMove_no_skip hg h)⟩
        exact ⟨rfl, rfl, rfl, rfl, rfl⟩
      · intro owed
        have hgate := hplain.trans (way_moves hc hg)
        refine ⟨fun h => hwaits (hgate.trans (if_neg (mt hway.1 h))), fun h ho => ?_, fun h ho => ?_⟩
        · exact (hgate.trans (if_pos (hway.2 h))).trans (congrArg some (leaveArming_owed ho))
        · exact (hgate.trans (if_pos (hway.2 h))).trans
            (congrArg some ((leaveArming_open ho).trans enterOpening_eq))
      · exact hplain.trans (plainMove_lost_way hc (mt hway.1 hw))
      · exact hplain.trans (plainMove_opening hc (hway.2 hw) hx)
      · exact hplain.trans ((plainMove_priming hc (hway.2 hw)).1 hp)
      · exact hplain.trans ((plainMove_priming hc (hway.2 hw)).2 hp ht)
      · intro ended fires lost
        have hdriving := hplain.trans (plainMove_driving hc)
        have hended : s.endHolds d s.steps.driveTime = true ↔ ended := endHolds_iff s d s.steps.driveTime
        have hfires (m : Manoeuvre) : s.triggerHolds d = some m ↔ fires m := triggerHolds_iff s d m
        have hnone (h : ∀ m, ¬fires m) : s.triggerHolds d = none := by
          rw [Option.eq_none_iff_forall_ne_some]
          exact fun m => mt (hfires m).1 (h m)
        refine ⟨fun h => ⟨_, hdriving.trans (drivingMove_ended (hended.2 h)), ?_⟩, fun m h hm => ?_, fun h hm hl => ?_,
          fun h hm hl hx => ?_, fun h hm hl ho hh hd => ?_⟩
        · exact ⟨rfl, rfl, rfl, rfl, rfl⟩
        · exact hdriving.trans (drivingMove_fires (mt hended.1 h) ((hfires m).2 hm))
        · exact hdriving.trans (drivingMove_lost (mt hended.1 h) (hnone hm) hl)
        · intro limit
          have hne : (s.chans.get d.chan).state ≠ .driving d.dir := by
            rcases hx with hx | hx <;> rw [show (s.chans.get d.chan).state = _ from hx] <;> nofun
          have hdrives := hdriving.trans (drivingMove_on (mt hended.1 h) (hnone hm) hl)
          exact (hdrives.trans ((if_neg hne).trans (if_pos hx))).trans (congrArg some (driveStep_eq hx))
        · rw [hdriving, drivingMove_on (mt hended.1 h) (hnone hm) hl, if_neg hd, if_neg (not_or.2 ⟨ho, hh⟩)]
      · exact hplain.trans ((plainMove_stalled hc).2 (not_lost_iff.2 ⟨hi, hp⟩))
      · intro entered
        rw [hplain, plainMove_closing hc hx, arm_cond hr]
        rfl
  · obtain ⟨hf, hplain⟩ := rests hw hn hmove
    refine ⟨hf, fun hc => (clearWay_iff s d).1 (way_of_rest hplain hc), fun hc => ?_, fun hc => ?_, fun hc => ?_,
      fun hc hx => ?_, arming_of_rest hplain⟩
    · obtain ⟨he, hm, hl, hx⟩ := driving_of_rest hplain hc
      obtain ⟨hi, hp⟩ := not_lost_iff.1 hl
      exact ⟨Bool.eq_false_iff.2 he, hm, hi, hp, hx⟩
    · by_contra hl
      exact nomatch ((plainMove_stalled hc).2 hl).symm.trans hplain
    · have hway := way_of_rest hplain (.inr (.inr hc))
      rw [Bool.eq_false_iff]
      exact fun hp => nomatch ((plainMove_priming hc hway).1 hp).symm.trans hplain
    · exact nomatch (plainMove_closing hc hx).symm.trans hplain

end Sys2Proof.StepEngine
end

section
/-! O51: the log ring (R189, R190). -/

namespace Sys2Proof.LogRing

open Sys2Proof.Machine Sys2Proof.Laws

/-! ## The slots of a record written -/

/-- A record that takes an empty slot leaves every other one (R190). -/
theorem putRecord_empty {slots : List LogSlot} {w : Nat} (h : ∀ x ∈ slots, x.slot ≠ w) (r : LogRec) :
    putRecord slots w r = slots ++ [{ slot := w, data := r }] := by
  have hkeep : (slots.filter fun x => x.slot != w) = slots :=
    List.filter_eq_self.2 fun x hx => bne_iff_ne.2 (h x hx)
  rw [putRecord, hkeep]

/-- A record that takes the slot of another one replaces it, and the others keep their order (R190). -/
theorem putRecord_replaces {a b : List LogSlot} {x : LogSlot} {w : Nat} (hx : x.slot = w)
    (ha : ∀ y ∈ a, y.slot ≠ x.slot) (hb : ∀ y ∈ b, y.slot ≠ x.slot) (r : LogRec) :
    putRecord (a ++ x :: b) w r = a ++ b ++ [{ slot := w, data := r }] := by
  have hkeep {l : List LogSlot} (h : ∀ y ∈ l, y.slot ≠ x.slot) : (l.filter fun y => y.slot != w) = l :=
    List.filter_eq_self.2 fun y hy => bne_iff_ne.2 (hx ▸ h y hy)
  have hdrop : ¬(x.slot != w) = true := by rw [hx, bne_self_eq_false]; exact Bool.false_ne_true
  rw [putRecord, List.filter_append, List.filter_cons_of_neg (by exact hdrop), hkeep ha, hkeep hb]

theorem nextSlot_room {slots : List LogSlot} (h : slots.length < 32) : nextSlot slots = slots.length := by
  rw [nextSlot, if_pos h]

/-- In a full ring the oldest closed record is next, behind the records IN-PROGRESS (R190). -/
theorem nextSlot_full {a b : List LogSlot} {x : LogSlot} (hfull : 32 ≤ (a ++ x :: b).length)
    (ha : ∀ y ∈ a, y.data.outcome = .inProgress) (hx : x.data.outcome ≠ .inProgress) :
    nextSlot (a ++ x :: b) = x.slot := by
  have hfind : (a ++ x :: b).find? (fun y => y.data.outcome != .inProgress) = some x := by
    have hnone : a.find? (fun y => y.data.outcome != .inProgress) = none :=
      List.find?_eq_none.2 fun y hy => by rw [ha y hy]; decide
    rw [List.find?_append, hnone, Option.none_or, List.find?_cons_of_pos (by exact bne_iff_ne.2 hx)]
  rw [nextSlot, if_neg (Nat.not_lt.2 hfull), hfind]

/-! ## Closing -/

/-- The records after one is closed (R189). -/
theorem closeRec_slots (s : State) (o : RunOutcome) (c : Option Cause) : (s.closeRec o c).log.slots =
    s.log.slots.map fun x => if x.data.outcome = .inProgress then
      { x with data := { x.data with
          outcome := o, cause := c, endTag := some s.log.tag, height := s.heightFor x.data.man x.data.idx } }
      else x := rfl

/-- The height of a step's record: the LIFT channel's alone (R189). -/
theorem heightFor_eq (s : State) {m : Manoeuvre} {i : Nat} {d : StepDef} (h : m.step s.straps.side i = some d) :
    s.heightFor (some m) (some i) = if d.chan = .lift then s.lines.height else none := by
  unfold State.heightFor
  dsimp only
  rw [h]

/-- Settles O51: the slots of a record written, the write position after it, and the records after one is closed. -/
theorem logRingReplacesTheOldestClosedRecord : Obligations.LogRingReplacesTheOldestClosedRecord := by
  unfold Obligations.LogRingReplacesTheOldestClosedRecord
  intro s r t
  refine ⟨writeRec_youngest s r, rfl, fun h => putRecord_empty h r, fun a x b hslots hx ha hb => ?_,
    fun h => nextSlot_room h, fun h a x b hslots ha hx => ?_, fun o c => ⟨rfl, ?_, fun x hx ho => ?_, fun x hx ho => ?_⟩⟩
  · have ht : t.log.slots = putRecord s.log.slots s.log.wpos r := rfl
    rw [ht, hslots, putRecord_replaces hx ha hb]
  · have ht : t.log.wpos = nextSlot t.log.slots := rfl
    rw [ht, hslots]
    exact nextSlot_full (hslots ▸ h) ha hx
  · rw [closeRec_slots, List.map_map]
    refine List.map_congr_left fun x _ => ?_
    rw [Function.comp_apply]
    split <;> rfl
  · rw [closeRec_slots, List.mem_map]
    exact ⟨x, hx, if_neg ho⟩
  · refine ⟨s.heightFor x.data.man x.data.idx, ?_, fun m i d hm hi hd => ?_⟩
    · rw [closeRec_slots, List.mem_map]
      exact ⟨x, hx, if_pos ho⟩
    · rw [hm, hi, heightFor_eq s hd]

end Sys2Proof.LogRing
end

section
/-! What a finished event leaves of the beacon controller, the flashes and the pump service: each pass acts once on its
own block, in the state that the engines have come to (assumption 23). -/

namespace Sys2Proof.Finishing

open Sys2Proof.Machine Sys2Proof.Laws Sys2Proof.BlockLaws Sys2Proof.EngineBlocks

/-! ## The blocks after their passes -/

/-- The beacon controller after its passes. -/
def beaconAfter (v : State) (b : BeaconUnit) : BeaconUnit :=
  if v.straps.role = .beacon then
    (((((b.hazardTo v.hazardCause).demandTo .rear (v.demand .rear)).demandTo .kerb (v.demand .kerb)).demandTo .road
      (v.demand .road)).demandTo .flags (v.demand .flags)).testFor (v.member.mstate == .member)
  else b.hazardTo v.hazardCause

/-- The flash of the FAULT lamp after its pass. -/
def cabAfter (v : State) (c : Flash) : Flash :=
  if v.cabFlashes = c.timer.isSome then c
  else if v.cabFlashes = true then { timer := some cabFlashMs, on := true } else Flash.off

/-- The flash of NODE-OK after its pass. -/
def nodeOkAfter (v : State) (n : Flash) : Flash :=
  if okHalfPeriod v.member.mstate = n.timer then n
  else { timer := okHalfPeriod v.member.mstate, on := (okHalfPeriod v.member.mstate).isSome }

/-- The pump service once the switch is believed again. -/
def pumpBelieved (v : State) (p : PumpUnit) : PumpUnit :=
  if (p.faulty && !v.input 15) = true then { p with faulty := false } else p

/-- The pump service once its output is decided. -/
def pumpDecided (v : State) (p : PumpUnit) : PumpUnit := p.turn ({ v with pump := p } : State).pumpWanted

/-- The pump service once its plausibility timer is decided. -/
def pumpTimed (v : State) (p : PumpUnit) : PumpUnit :=
  if ({ v with pump := p } : State).plausRuns = p.plaus.isSome then p
  else { p with plaus := if ({ v with pump := p } : State).plausRuns = true then some plausibilityMs else none }

/-- The pump service after its passes. -/
def pumpAfter (v : State) (p : PumpUnit) : PumpUnit := pumpTimed v (pumpDecided v (pumpBelieved v p))

/-! ## A state with other blocks -/

/-- The state `v` with these blocks, and any link and posture unit. -/
def Like (v : State) (b : BeaconUnit) (c n : Flash) (p : PumpUnit) (t : State) : Prop :=
  ∃ l q, t = { v with link := l, post := q, beacon := b, cab := c, nodeOk := n, pump := p }

section

variable {v t : State} {b : BeaconUnit} {c n : Flash} {p : PumpUnit}

theorem Like.queue (h : Like v b c n p t) (f : TxFrame) : Like v b c n p (t.queue f) := by
  obtain ⟨l, q, rfl⟩ := h
  rw [queue_eq]
  exact ⟨_, q, rfl⟩

theorem Like.mark (h : Like v b c n p t) : Like v b c n p t.markChange := by
  obtain ⟨l, q, rfl⟩ := h
  exact ⟨l, _, rfl⟩

/-- A change that is noted changes the link and the posture unit alone. -/
theorem Like.note (h : Like v b c n p t) (old : State) : Like v b c n p (State.noteChange old t) := by
  rcases noteChange_cases old t with he | ⟨-, he | he | he⟩ <;> rw [he]
  · exact h
  · exact h.queue .posture
  · exact h.mark
  · exact (h.queue .posture).mark

theorem Like.snapshot (h : Like v b c n p t) : Like v b c n p (snapshotPass t) := by
  unfold snapshotPass
  split
  · exact h
  · split
    · exact h.queue .snapshot
    · obtain ⟨l, q, rfl⟩ := h
      exact ⟨_, q, rfl⟩

theorem Like.hazard (h : Like v b c n p t) : Like v (b.hazardTo v.hazardCause) c n p (hazardPass t) := by
  obtain ⟨l, q, rfl⟩ := h
  exact ⟨l, q, rfl⟩

theorem Like.demand (h : Like v b c n p t) (g : Group) :
    Like v (if v.straps.role = .beacon then b.demandTo g (v.demand g) else b) c n p (demandPass g t) := by
  obtain ⟨l, q, rfl⟩ := h
  by_cases hr : v.straps.role = .beacon
  · rw [if_pos hr]
    exact ⟨l, q, if_pos hr⟩
  · rw [if_neg hr]
    exact ⟨l, q, if_neg hr⟩

theorem Like.lampTest (h : Like v b c n p t) :
    Like v (if v.straps.role = .beacon then b.testFor (v.member.mstate == .member) else b) c n p (lampTestPass t) := by
  obtain ⟨l, q, rfl⟩ := h
  by_cases hr : v.straps.role = .beacon
  · rw [if_pos hr]
    exact ⟨l, q, if_pos hr⟩
  · rw [if_neg hr]
    exact ⟨l, q, if_neg hr⟩

theorem Like.cabFlash (h : Like v b c n p t) : Like v b (cabAfter v c) n p (cabPass t) := by
  obtain ⟨l, q, rfl⟩ := h
  unfold cabAfter
  by_cases hr : v.cabFlashes = c.timer.isSome
  · rw [if_pos hr]
    exact ⟨l, q, if_pos hr⟩
  · rw [if_neg hr]
    exact ⟨l, q, if_neg hr⟩

theorem Like.okFlash (h : Like v b c n p t) : Like v b c (nodeOkAfter v n) p (nodeOkPass t) := by
  obtain ⟨l, q, rfl⟩ := h
  unfold nodeOkAfter
  by_cases hr : okHalfPeriod v.member.mstate = n.timer
  · rw [if_pos hr]
    exact ⟨l, q, if_pos hr⟩
  · rw [if_neg hr]
    exact ⟨l, q, if_neg hr⟩

theorem Like.believe (h : Like v b c n p t) : Like v b c n (pumpBelieved v p) (believePass t) := by
  obtain ⟨l, q, rfl⟩ := h
  unfold pumpBelieved
  by_cases hr : (p.faulty && !v.input 15) = true
  · rw [if_pos hr]
    exact ⟨l, q, if_pos hr⟩
  · rw [if_neg hr]
    exact ⟨l, q, if_neg hr⟩

theorem Like.pumpOut (h : Like v b c n p t) : Like v b c n (pumpDecided v p) (pumpPass t) := by
  obtain ⟨l, q, rfl⟩ := h
  exact ⟨l, q, rfl⟩

theorem Like.plaus (h : Like v b c n p t) : Like v b c n (pumpTimed v p) (plausPass t) := by
  obtain ⟨l, q, rfl⟩ := h
  unfold pumpTimed
  by_cases hr : ({ v with pump := p } : State).plausRuns = p.plaus.isSome
  · rw [if_pos hr]
    exact ⟨l, q, if_pos hr⟩
  · rw [if_neg hr]
    exact ⟨l, q, if_neg hr⟩

/-- The passes, taken one by one and each of them noted. -/
theorem Like.cons {B : BeaconUnit} {C N : Flash} {P : PumpUnit} {f : State → State} {fs : List (State → State)}
    (hf : Like v b c n p (f t))
    (h : ∀ u, Like v b c n p u → Like v B C N P (fs.foldl (fun x g => State.noteChange x (g x)) u)) :
    Like v B C N P ((f :: fs).foldl (fun x g => State.noteChange x (g x)) t) := by
  rw [List.foldl_cons]
  exact h _ (hf.note t)

end

/-- The passes of an event act once on the state that the engines have come to. -/
theorem follow_like (v : State) :
    Like v (beaconAfter v v.beacon) (cabAfter v v.cab) (nodeOkAfter v v.nodeOk) (pumpAfter v v.pump) (follow v) := by
  have h0 : Like v v.beacon v.cab v.nodeOk v.pump v := ⟨v.link, v.post, rfl⟩
  have hbeacon : beaconAfter v v.beacon =
      let F (b : BeaconUnit) (g : Group) : BeaconUnit :=
        if v.straps.role = .beacon then b.demandTo g (v.demand g) else b
      let b := F (F (F (F (v.beacon.hazardTo v.hazardCause) .rear) .kerb) .road) .flags
      if v.straps.role = .beacon then b.testFor (v.member.mstate == .member) else b := by
    unfold beaconAfter
    by_cases hr : v.straps.role = .beacon
    · simp only [hr, if_true]
    · simp only [hr, if_false]
  rw [hbeacon]
  unfold follow passes
  refine h0.snapshot.cons fun t1 h1 => ?_
  refine h1.hazard.cons fun t2 h2 => ?_
  refine (h2.demand .rear).cons fun t3 h3 => ?_
  refine (h3.demand .kerb).cons fun t4 h4 => ?_
  refine (h4.demand .road).cons fun t5 h5 => ?_
  refine (h5.demand .flags).cons fun t6 h6 => ?_
  refine h6.lampTest.cons fun t7 h7 => ?_
  refine h7.cabFlash.cons fun t8 h8 => ?_
  refine h8.okFlash.cons fun t9 h9 => ?_
  refine h9.believe.cons fun t10 h10 => ?_
  refine h10.pumpOut.cons fun t11 h11 => ?_
  exact h11.plaus.cons fun t12 h12 => h12

/-- The state that the engines have come to in an event. -/
def settled (old s : State) : State := settle settleFuel (State.noteChange old s)

/-- The engines leave the blocks of the passes, and what no engine owns. -/
theorem settled_blocks (old s : State) : (settled old s).pump = s.pump ∧ (settled old s).beacon = s.beacon ∧
    (settled old s).cab = s.cab ∧ (settled old s).nodeOk = s.nodeOk := by
  refine settle_keeps (P := fun t => t.pump = s.pump ∧ t.beacon = s.beacon ∧ t.cab = s.cab ∧ t.nodeOk = s.nodeOk)
    (fun t u hm h => ?_) (fun o t h => ?_) settleFuel _ (noteChange_blocks old s)
  · have hb := engineMove_blocks hm
    simp only [blocks, Prod.mk.injEq] at hb
    obtain ⟨hpump, hbeacon, hcab, hok, -⟩ := hb
    rwa [hpump, hbeacon, hcab, hok]
  · obtain ⟨hpump, hbeacon, hcab, hok⟩ := noteChange_blocks o t
    rwa [hpump, hbeacon, hcab, hok]

/-- A finished event: its blocks after their passes. -/
theorem finish_like (old s : State) : Like (settled old s) (beaconAfter (settled old s) s.beacon)
    (cabAfter (settled old s) s.cab) (nodeOkAfter (settled old s) s.nodeOk) (pumpAfter (settled old s) s.pump)
    (finish old s) := by
  obtain ⟨hpump, hbeacon, hcab, hok⟩ := settled_blocks old s
  have h := follow_like (settled old s)
  rwa [hpump, hbeacon, hcab, hok] at h

end Sys2Proof.Finishing
end

section
/-! O53: the timers of the beacon controller (R176, R179, R180) and the flashes of the CAB and of NODE-OK (R182, R185). -/

namespace Sys2Proof.Lamps

open Sys2Proof.Machine Sys2Proof.Laws Sys2Proof.Pendant Sys2Proof.Finishing

/-! ## Checks and timers -/

theorem checkFails_iff (s : State) (g : Group) (openLoad overCurrent : Bool) :
    s.checkFails g openLoad overCurrent = true ↔
      overCurrent = true ∨ (openLoad = true ∧ s.groupDriven g = true) := by
  rw [State.checkFails, Bool.or_eq_true, Bool.and_eq_true]

theorem exec_groupTimer {s : State} {g : Group} (ht : (s.beacon.get g).timer ≠ none) (openLoad overCurrent : Bool) :
    exec (.groupTimer g openLoad overCurrent) s = .next (finish s
      { s with beacon := s.beacon.set g ((s.beacon.get g).timerOut (s.checkFails g openLoad overCurrent)) }) := by
  obtain ⟨n, hn⟩ := Option.ne_none_iff_exists'.1 ht
  change execGroupTimer g openLoad overCurrent s = _
  unfold execGroupTimer
  rw [hn]

theorem timerOut_warming {x : GroupRec} (h : x.state = .warming) (fails : Bool) : x.timerOut fails =
    if fails = true then { x with state := .failed, timer := none }
    else if x.demanded = true then { x with state := .lit, timer := none }
    else { x with state := .tail, timer := some 2000 } := by
  rw [GroupRec.timerOut, h]
  rfl

theorem timerOut_tail {x : GroupRec} (h : x.state = .tail) (fails : Bool) :
    x.timerOut fails = { x with state := .dark, timer := none } := by
  rw [GroupRec.timerOut, h]

theorem exec_testSlot {s : State} {g : Group} (hg : s.beacon.test = .slot g) (ht : s.beacon.slot ≠ none)
    (openLoad overCurrent : Bool) : exec (.testSlotTimer openLoad overCurrent) s =
      .next (finish s (s.endSlot g (s.checkFails g openLoad overCurrent))) := by
  obtain ⟨n, hn⟩ := Option.ne_none_iff_exists'.1 ht
  change execTestSlotTimer openLoad overCurrent s = _
  unfold execTestSlotTimer
  rw [hg, hn]

/-- A slot that ends leaves its group FAILED where the check fails, and as it was otherwise (R180). -/
theorem set_slotOut (b : BeaconUnit) (g : Group) (fails : Bool) : b.set g ((b.get g).slotOut fails) =
    if fails = true then b.set g { b.get g with state := .failed, timer := none } else b := by
  unfold GroupRec.slotOut
  split
  · rfl
  · exact set_get_self b g

theorem toggle_eq {f : Flash} (h : f.timer ≠ none) : f.toggle = { f with on := !f.on } := by
  obtain ⟨n, hn⟩ := Option.ne_none_iff_exists'.1 h
  rw [Flash.toggle, hn]

/-! ## The flashes after an event -/

theorem latched_iff (s : State) : s.latched = true ↔ s.table.halt.latch ≠ none := ClaimTable.latched_iff s

theorem cabFlashes_iff (s : State) : s.cabFlashes = true ↔
    s.straps.role = .cab ∧ s.member.mstate = .member ∧ s.table.halt.latch ≠ none := by
  simp only [State.cabFlashes, Bool.and_eq_true, beq_iff_eq, latched_iff, and_assoc]

/-- The FAULT lamp's flash goes on, starts or stops (R182). -/
theorem cabAfter_cases (v : State) (c : Flash) :
    (v.cabFlashes = true → cabAfter v c = if c.timer = none then { timer := some 250, on := true } else c) ∧
    (¬v.cabFlashes = true → cabAfter v c = if c.timer = none then c else { timer := none, on := false }) := by
  refine ⟨fun h => ?_, fun h => ?_⟩
  · cases ht : c.timer with
    | none =>
      rw [cabAfter, h, ht, if_neg (by decide), if_pos rfl, if_pos rfl]
      rfl
    | some n => rw [cabAfter, h, ht, if_pos (by rfl), if_neg (by nofun)]
  · rw [Bool.not_eq_true] at h
    cases ht : c.timer with
    | none => rw [cabAfter, h, ht, if_pos (by rfl), if_pos rfl]
    | some n =>
      rw [cabAfter, h, ht, if_neg (by nofun), if_neg (by decide), if_neg (by nofun)]
      rfl

theorem finish_cab (old s : State) : (finish old s).cab = cabAfter (finish old s) s.cab := by
  obtain ⟨l, q, ht⟩ := finish_like old s
  rw [ht]
  rfl

theorem finish_nodeOk (old s : State) : (finish old s).nodeOk = nodeOkAfter (finish old s) s.nodeOk := by
  obtain ⟨l, q, ht⟩ := finish_like old s
  rw [ht]
  rfl

/-- Settles O53: the check that ends a warming or a test slot, the flash timers, and the flashes after an event. -/
theorem beaconTimersRunOut : Obligations.BeaconTimersRunOut := by
  unfold Obligations.BeaconTimersRunOut
  refine ⟨fun s g openLoad overCurrent ht => ?_, fun s g openLoad overCurrent hg ht => ?_, fun s =>
    ⟨fun h => ?_, fun h => ?_, fun h => ?_, fun old => ?_⟩⟩
  · intro fails x become
    have hfails : s.checkFails g openLoad overCurrent = true ↔ fails := checkFails_iff s g openLoad overCurrent
    have hbecome {y : GroupRec} (h : x.timerOut (s.checkFails g openLoad overCurrent) = y) : become y :=
      (exec_groupTimer ht openLoad overCurrent).trans
        (congrArg (fun z => Host.Outcome.next (finish s { s with beacon := s.beacon.set g z })) h)
    refine ⟨fun hx hf => hbecome ?_, fun hx hf hd => hbecome ?_, fun hx hf hd => hbecome ?_, fun hx => hbecome ?_⟩
    · rw [timerOut_warming hx, if_pos (hfails.2 hf)]
    · rw [timerOut_warming hx, if_neg (mt hfails.1 hf), if_pos hd]
    · rw [timerOut_warming hx, if_neg (mt hfails.1 hf), if_neg (Bool.eq_false_iff.1 hd)]
    · exact timerOut_tail hx _
  · intro fails u
    have hu : s.beacon.set g ((s.beacon.get g).slotOut (s.checkFails g openLoad overCurrent)) = u :=
      (set_slotOut s.beacon g _).trans (if_congr (checkFails_iff s g openLoad overCurrent) rfl rfl)
    rw [exec_testSlot hg ht, State.endSlot, hu]
    cases g <;> rfl
  · exact congrArg (fun f => Host.Outcome.next { s with beacon := { s.beacon with flash := f } }) (toggle_eq h)
  · exact congrArg (fun f => Host.Outcome.next { s with cab := f }) (toggle_eq h)
  · exact congrArg (fun f => Host.Outcome.next { s with nodeOk := f }) (toggle_eq h)
  · intro t flashes half
    have hflashes : t.cabFlashes = true ↔ flashes := cabFlashes_iff t
    have hhalf : okHalfPeriod t.member.mstate = half := by
      dsimp only [half]
      cases t.member.mstate <;> rfl
    have hcab : t.cab = cabAfter t s.cab := finish_cab old s
    have hok : t.nodeOk = nodeOkAfter t s.nodeOk := finish_nodeOk old s
    refine ⟨fun h => ?_, fun h => ?_, ?_⟩
    · rw [hcab, (cabAfter_cases t s.cab).1 (hflashes.2 h)]
    · rw [hcab, (cabAfter_cases t s.cab).2 (mt hflashes.1 h)]
    · rw [hok, nodeOkAfter, hhalf]
      exact if_congr eq_comm rfl rfl

end Sys2Proof.Lamps
end

section
/-! What is read of the roster and of the claim list: a condition of an entry (R78), the holder of a resource (R49) and
the demand of a step for the pump (R164). -/

namespace Sys2Proof.Readings

open Sys2Proof.Machine Sys2Proof.Laws

/-! ## Conditions of an entry -/

theorem condsOf_nodup (r : Option Role) : (condsOf r).Nodup := by
  cases r with
  | none => exact List.nodup_nil
  | some r => cases r <;> decide

theorem condsOf_length (r : Option Role) : (condsOf r).length ≤ 16 := by
  cases r with
  | none => exact Nat.zero_le _
  | some r => cases r <;> decide

/-- A conditions field shows a condition at its position (R78). -/
theorem condIn_iff (r : Option Role) (w : BitVec 16) (c : Cond) : condIn r w c = true ↔
    ∃ i : Fin 16, (condsOf r)[i.val]? = some c ∧ w.getLsbD i.val = true := by
  unfold condIn
  constructor
  · intro h
    by_cases hlt : (condsOf r).idxOf c < (condsOf r).length
    · rw [if_pos hlt] at h
      refine ⟨⟨(condsOf r).idxOf c, hlt.trans_le (condsOf_length r)⟩, ?_, h⟩
      rw [List.getElem?_eq_getElem hlt, List.getElem_idxOf]
    · rw [if_neg hlt] at h
      exact absurd h Bool.false_ne_true
  · rintro ⟨i, hi, hbit⟩
    obtain ⟨hlt, hget⟩ := List.getElem?_eq_some_iff.1 hi
    have hidx : (condsOf r).idxOf c = i.val := by
      rw [← hget, (condsOf_nodup r).idxOf_getElem]
    rw [hidx, if_pos hlt]
    exact hbit

theorem shows_iff (e : Entry) (c : Cond) : e.shows c = true ↔
    ∃ x, e.last = some x ∧ condIn (e.role.map RoleSide.role) x.conds c = true := by
  unfold Entry.shows
  cases e.last with
  | none => simp
  | some x => simp

/-- PUMP-DEMAND stands at position 6 of a HATCH and at position 11 of the LIFT (R78). -/
theorem shows_pumpDemand_iff (e : Entry) : e.shows .pumpDemand = true ↔ ∃ x, e.last = some x ∧
    ((∃ d, e.role = some (.hatch d)) ∧ x.conds.getLsbD 6 = true ∨ e.role = some .lift ∧ x.conds.getLsbD 11 = true) := by
  rw [shows_iff]
  refine exists_congr fun x => and_congr_right fun _ => ?_
  cases e.role with
  | none => simp [condIn, condsOf]
  | some r => cases r <;> simp [condIn, condsOf, roleConds, RoleSide.role]

/-- FOLDED stands at position 3 of the LIFT (R78). -/
theorem shows_folded_lift {e : Entry} (hr : e.role = some .lift) : e.shows .folded = true ↔
    ∃ x, e.last = some x ∧ x.conds.getLsbD 3 = true := by
  rw [shows_iff, hr]
  refine exists_congr fun x => and_congr_right fun _ => ?_
  simp [condIn, condsOf, roleConds, RoleSide.role]

theorem role_lift_iff (e : Entry) : e.role.map RoleSide.role = some .lift ↔ e.role = some .lift := by
  cases e.role with
  | none => simp
  | some r => cases r <;> simp [RoleSide.role]

/-! ## The holder of a resource -/

theorem holderOf_eq_some (l : List ClaimRec) (names : ResSet → Bool) (n : Node) : holderOf l names = some n ↔
    ∃ a h b, l = a ++ h :: b ∧ (∀ x ∈ a, x.state = .granted → names x.set = false) ∧ h.state = .granted ∧
      names h.set = true ∧ h.claimant = n := by
  have hnot (x : ClaimRec) : (!(x.state == .granted && names x.set)) = true ↔
      (x.state = .granted → names x.set = false) := by
    rw [Bool.not_eq_true', Bool.and_eq_false_imp, beq_iff_eq]
  rw [holderOf, Option.map_eq_some_iff]
  simp only [List.find?_eq_some_iff_append, Bool.and_eq_true, beq_iff_eq]
  constructor
  · rintro ⟨h, ⟨⟨hg, hn⟩, a, b, hl, ha⟩, hc⟩
    exact ⟨a, h, b, hl, fun x hx => (hnot x).1 (ha x hx), hg, hn, hc⟩
  · rintro ⟨a, h, b, hl, ha, hg, hn, hc⟩
    exact ⟨h, ⟨⟨hg, hn⟩, a, b, hl, fun x hx => (hnot x).2 (ha x hx)⟩, hc⟩

/-! ## The demand for the pump -/

/-- The step states in which a powered step demands the pump (R164). -/
theorem pumpDemand_iff (s : State) : s.pumpDemand = true ↔ ∃ r c d, s.runs.run = some r ∧ s.steps.cur = some c ∧
    s.stepOf r.top = some d ∧ d.powered = true ∧
      (c.state = .opening ∨ c.state = .priming ∨ c.state = .driving ∨ c.state = .stalled) := by
  unfold State.pumpDemand
  cases s.runs.run with
  | none => simp
  | some r =>
    cases s.steps.cur with
    | none => simp
    | some c =>
      cases hd : s.stepOf r.top with
      | none => simp [hd]
      | some d => cases hc : c.state <;> simp [hd, hc]

end Sys2Proof.Readings
end

section
/-! O52: the timers of the pump service (R166, R167, R169), and the pump after an event (R163, R164, R170). -/

namespace Sys2Proof.PumpService

open Sys2Proof.Machine Sys2Proof.Laws Sys2Proof.Finishing Sys2Proof.Readings

/-! ## The timers -/

theorem exec_idle (s : State) : (s.pump.idle ≠ none →
      exec .idleTimer s = .next { s with pump := { s.pump with idle := none, runTime := 0 } }) ∧
    (s.pump.idle = none → exec .idleTimer s = .next s) := by
  refine ⟨fun h => ?_, fun h => ?_⟩
  · obtain ⟨n, hn⟩ := Option.ne_none_iff_exists'.1 h
    change execIdleTimer s = _
    unfold execIdleTimer
    rw [hn]
  · change execIdleTimer s = _
    unfold execIdleTimer
    rw [h]

theorem exec_duty (s : State) :
    exec .dutyLimit s = .next (finish s (if s.pump.on = true then s.startRest else s)) := rfl

theorem startRest_eq (s : State) : s.startRest = { s with pump := { s.pump with
    on := false, runTime := s.fitRow.duty * 1000, idle := none, rest := some (s.fitRow.duty * 500) } } := rfl

theorem exec_rest (s : State) : (s.pump.rest ≠ none →
      exec .restTimer s = .next (finish s { s with pump := { s.pump with rest := none, runTime := 0 } })) ∧
    (s.pump.rest = none → exec .restTimer s = .next (finish s s)) := by
  refine ⟨fun h => ?_, fun h => ?_⟩
  · obtain ⟨n, hn⟩ := Option.ne_none_iff_exists'.1 h
    change execRestTimer s = _
    unfold execRestTimer
    rw [hn]
  · change execRestTimer s = _
    unfold execRestTimer
    rw [h]

theorem exec_plaus (s : State) : (s.pump.plaus ≠ none →
      exec .plausibilityTimer s = .next (finish s { s with pump := { s.pump with plaus := none, faulty := true } })) ∧
    (s.pump.plaus = none → exec .plausibilityTimer s = .next (finish s s)) := by
  refine ⟨fun h => ?_, fun h => ?_⟩
  · obtain ⟨n, hn⟩ := Option.ne_none_iff_exists'.1 h
    change execPlausibilityTimer s = _
    unfold execPlausibilityTimer
    rw [hn]
  · change execPlausibilityTimer s = _
    unfold execPlausibilityTimer
    rw [h]

/-! ## The pump after an event -/

/-- A turn-off starts the idle timer, and a turn-on stops it (R166). -/
theorem turn_eq (p : PumpUnit) (b : Bool) : p.turn b =
    { p with on := b, idle := if p.on = true ∧ b = false then some 10000
                              else if p.on = false ∧ b = true then none else p.idle } := by
  obtain ⟨on, runTime, idle, rest, plaus, faulty⟩ := p
  cases on <;> cases b <;> rfl

theorem pumpBelieved_eq (v : State) (p : PumpUnit) :
    pumpBelieved v p = { p with faulty := p.faulty && v.input 15 } := by
  obtain ⟨on, runTime, idle, rest, plaus, faulty⟩ := p
  unfold pumpBelieved
  cases faulty <;> cases v.input 15 <;> rfl

theorem plausRuns_iff (s : State) : s.plausRuns = true ↔
    s.straps.role = .lift ∧ s.input 15 = true ∧ s.pump.on = false ∧ s.pump.faulty = false := by
  simp only [State.plausRuns, Bool.and_eq_true, beq_iff_eq, Bool.not_eq_true', and_assoc]

theorem pumpTimed_eq (v : State) (p : PumpUnit) : pumpTimed v p =
    { p with plaus := if v.straps.role = .lift ∧ v.input 15 = true ∧ p.on = false ∧ p.faulty = false then
        (if p.plaus = none then some 2000 else p.plaus) else none } := by
  have hruns : ({ v with pump := p } : State).plausRuns = true ↔
      v.straps.role = .lift ∧ v.input 15 = true ∧ p.on = false ∧ p.faulty = false := plausRuns_iff _
  obtain ⟨on, runTime, idle, rest, plaus, faulty⟩ := p
  unfold pumpTimed
  cases hr : State.plausRuns _ with
  | true =>
    rw [if_pos (hruns.1 hr)]
    cases plaus <;> rfl
  | false =>
    rw [if_neg fun h => Bool.false_ne_true (hr.symm.trans (hruns.2 h))]
    cases plaus <;> rfl

/-- The pump service after its passes, with its output decided as `w`. -/
theorem pumpAfter_eq (v : State) (p : PumpUnit) : pumpAfter v p =
    { on := ({ v with pump := p } : State).pumpWanted, runTime := p.runTime
      idle := if p.on = true ∧ ({ v with pump := p } : State).pumpWanted = false then some 10000
              else if p.on = false ∧ ({ v with pump := p } : State).pumpWanted = true then none else p.idle
      rest := p.rest
      plaus := if v.straps.role = .lift ∧ v.input 15 = true ∧ ({ v with pump := p } : State).pumpWanted = false ∧
          (p.faulty && v.input 15) = false then (if p.plaus = none then some 2000 else p.plaus) else none
      faulty := p.faulty && v.input 15 } := by
  have hwanted : ({ v with pump := pumpBelieved v p } : State).pumpWanted = ({ v with pump := p } : State).pumpWanted :=
    pumpWanted_congr rfl rfl rfl rfl rfl rfl (by rw [pumpBelieved_eq])
  rw [pumpAfter, pumpTimed_eq, pumpDecided, hwanted, turn_eq, pumpBelieved_eq]

theorem finish_pump (old s : State) : (finish old s).pump = pumpAfter (finish old s) s.pump := by
  obtain ⟨l, q, ht⟩ := finish_like old s
  rw [ht]
  rfl

/-- The pump service as it stands after an event. -/
theorem pump_fields {t : State} {p : PumpUnit} (h : t.pump = pumpAfter t p) :
    t.pump.on = t.pumpWanted ∧ t.pump.runTime = p.runTime ∧ t.pump.rest = p.rest ∧
    t.pump.idle = (if p.on = true ∧ t.pumpWanted = false then some 10000
      else if p.on = false ∧ t.pumpWanted = true then none else p.idle) ∧
    t.pump.faulty = (p.faulty && t.input 15) ∧
    t.pump.plaus = if t.straps.role = .lift ∧ t.input 15 = true ∧ t.pumpWanted = false ∧
      (p.faulty && t.input 15) = false then (if p.plaus = none then some 2000 else p.plaus) else none := by
  rw [pumpAfter_eq] at h
  have hrest : t.pump.rest = p.rest := by rw [h]
  have hwanted : ({ t with pump := p } : State).pumpWanted = t.pumpWanted :=
    pumpWanted_congr rfl rfl rfl rfl rfl rfl hrest.symm
  rw [hwanted] at h
  exact ⟨by rw [h], by rw [h], hrest, by rw [h], by rw [h], by rw [h]⟩

/-- The holder of PUMP demands the pump, by its own step or in its last conditions (R164). -/
theorem holderDemands_iff (s : State) : s.holderDemands = true ↔
    ∃ a h b, s.table.claims = a ++ h :: b ∧ (∀ x ∈ a, x.state = .granted → x.set.pump = false) ∧
      h.state = .granted ∧ h.set.pump = true ∧ (h.claimant = s.own → s.pumpDemand = true) ∧
      (h.claimant ≠ s.own → (s.entry h.claimant).state = .member ∧ (s.entry h.claimant).heard = true ∧
        (s.entry h.claimant).fresh = true ∧ (s.entry h.claimant).shows .pumpDemand = true) := by
  have hheld : s.holderDemands = true ↔ ∃ n, holderOf s.table.claims ResSet.pump = some n ∧
      (n = s.own → s.pumpDemand = true) ∧ (n ≠ s.own → (s.entry n).state = .member ∧ (s.entry n).heard = true ∧
        (s.entry n).fresh = true ∧ (s.entry n).shows .pumpDemand = true) := by
    unfold State.holderDemands
    cases holderOf s.table.claims ResSet.pump with
    | none => simp
    | some n =>
      by_cases hn : n = s.own
      · simp [hn]
      · simp [hn, and_assoc]
  rw [hheld]
  constructor
  · rintro ⟨n, hn, hown, hpeer⟩
    obtain ⟨a, h, b, hl, ha, hg, hp, rfl⟩ := (holderOf_eq_some _ _ _).1 hn
    exact ⟨a, h, b, hl, ha, hg, hp, hown, hpeer⟩
  · rintro ⟨a, h, b, hl, ha, hg, hp, hown, hpeer⟩
    exact ⟨h.claimant, (holderOf_eq_some _ _ _).2 ⟨a, h, b, hl, ha, hg, hp, rfl⟩, hown, hpeer⟩

theorem pumpWanted_iff (s : State) : s.pumpWanted = true ↔ s.straps.role = .lift ∧ s.member.mstate = .member ∧
    s.table.halt.latch = none ∧ s.pump.rest = none ∧ s.lines.outLatch[(9 : Fin 12)] = false ∧
      s.holderDemands = true := by
  simp only [State.pumpWanted, State.latched, Bool.and_eq_true, beq_iff_eq, Bool.not_eq_true', Option.isNone_iff_eq_none,
    Option.isSome_eq_false_iff]
  tauto

theorem pressureUp_iff (s : State) : s.cond .pressureUp = true ↔
    s.straps.role = .lift ∧ s.input 15 = true ∧ s.pump.faulty = false := by
  change s.pressureUp = true ↔ _
  simp only [State.pressureUp, Bool.and_eq_true, beq_iff_eq, Bool.not_eq_true', and_assoc]

/-- Settles O52: the four timers, and the pump service after an event. -/
theorem pumpTimersRunOut : Obligations.PumpTimersRunOut := by
  unfold Obligations.PumpTimersRunOut
  intro s
  refine ⟨(exec_idle s).1, fun h => ?_, (exec_rest s).1, (exec_plaus s).1, (exec_idle s).2, fun h => ?_,
    (exec_rest s).2, (exec_plaus s).2, fun old => ?_⟩
  · rw [exec_duty, if_pos h, startRest_eq]
  · rw [exec_duty, if_neg (Bool.eq_false_iff.1 h)]
  · intro t ownDemand peerDemand
    obtain ⟨hon, htime, hrest, hidle, hfaulty, hplaus⟩ := pump_fields (t := t) (finish_pump old s)
    clear_value t
    have hdemand : t.holderDemands = true ↔ ∃ a h b, t.table.claims = a ++ h :: b ∧
        (∀ x ∈ a, x.state = .granted → x.set.pump = false) ∧ h.state = .granted ∧ h.set.pump = true ∧
        (h.claimant = t.own → ownDemand) ∧ (h.claimant ≠ t.own → peerDemand (t.entry h.claimant)) := by
      have hown : t.pumpDemand = true ↔ ownDemand := pumpDemand_iff t
      have hpeer (e : Entry) : (e.state = .member ∧ e.heard = true ∧ e.fresh = true ∧ e.shows .pumpDemand = true) ↔
          peerDemand e := by
        rw [shows_pumpDemand_iff]
      simp only [holderDemands_iff, hown, hpeer]
    refine ⟨?_, htime, hrest, ?_, hfaulty, ?_, pressureUp_iff t⟩
    · rw [hon, pumpWanted_iff, hdemand]
    · rw [hidle, hon]
    · rw [hplaus, hon, hfaulty]

end Sys2Proof.PumpService
end

section
/-! O54: what a BEACON node shows after an event (R175, R176, R179, R180): its passes on the beacon controller, by the
part that each of them acts on. -/

namespace Sys2Proof.BeaconPasses

open Sys2Proof.Machine Sys2Proof.Laws Sys2Proof.Acknowledge Sys2Proof.Finishing Sys2Proof.Readings

/-! ## The lamp test -/

/-- What becomes of a lamp test from `u` to `w`, cut where `P` holds (R180). -/
structure TestCut (P : Prop) (u w : BeaconUnit) : Prop where
  notRun : u.test = .notRun → w.test = .notRun
  done : u.test = .done → w.test = .done ∧ w.slot = u.slot
  slotCut : ∀ g, u.test = .slot g → P → w.test = .done ∧ w.slot = none
  slotOn : ∀ g, u.test = .slot g → ¬P → w.test = .slot g ∧ w.slot = u.slot

theorem TestCut.congr {P Q : Prop} {u w : BeaconUnit} (h : TestCut P u w) (hpq : P ↔ Q) : TestCut Q u w :=
  propext hpq ▸ h

theorem TestCut.trans {P Q : Prop} {u v w : BeaconUnit} (h : TestCut P u v) (k : TestCut Q v w) :
    TestCut (P ∨ Q) u w where
  notRun hu := k.notRun (h.notRun hu)
  done hu := by
    obtain ⟨ht, hs⟩ := h.done hu
    obtain ⟨kt, ks⟩ := k.done ht
    exact ⟨kt, ks.trans hs⟩
  slotCut g hu hpq := by
    by_cases hp : P
    · obtain ⟨ht, hs⟩ := h.slotCut g hu hp
      obtain ⟨kt, ks⟩ := k.done ht
      exact ⟨kt, ks.trans hs⟩
    · exact k.slotCut g (h.slotOn g hu hp).1 (hpq.resolve_left hp)
  slotOn g hu hpq := by
    obtain ⟨ht, hs⟩ := h.slotOn g hu fun hp => hpq (.inl hp)
    obtain ⟨kt, ks⟩ := k.slotOn g ht fun hq => hpq (.inr hq)
    exact ⟨kt, ks.trans hs⟩

/-- A change that leaves the test and its timer. -/
theorem testCut_of_same {P : Prop} {u w : BeaconUnit} (hp : ¬P) (ht : w.test = u.test) (hs : w.slot = u.slot) :
    TestCut P u w where
  notRun hu := ht.trans hu
  done hu := ⟨ht.trans hu, hs⟩
  slotCut _ _ h := absurd h hp
  slotOn _ hu _ := ⟨ht.trans hu, hs⟩

/-- A change that cuts the test (R180). -/
theorem testCut_of_cut {P : Prop} {u w : BeaconUnit} (hp : P) (ht : w.test = u.cutTest.test)
    (hs : w.slot = u.cutTest.slot) : TestCut P u w where
  notRun hu := by rw [ht, BeaconUnit.cutTest, hu]; exact hu
  done hu := by
    rw [ht, hs, BeaconUnit.cutTest, hu]
    exact ⟨hu, rfl⟩
  slotCut g hu _ := by
    rw [ht, hs, BeaconUnit.cutTest, hu]
    exact ⟨rfl, rfl⟩
  slotOn _ _ h := absurd hp h

theorem set_test (u : BeaconUnit) (g : Group) (x : GroupRec) : (u.set g x).test = u.test ∧ (u.set g x).slot = u.slot ∧
    (u.set g x).flash = u.flash := by
  cases g <;> exact ⟨rfl, rfl, rfl⟩

theorem cutTest_flash (u : BeaconUnit) : u.cutTest.flash = u.flash := by
  unfold BeaconUnit.cutTest
  split <;> rfl

/-! ## The passes, one by one -/

/-- Hazard's start cuts the test. -/
theorem hazardTo_test (u : BeaconUnit) (b : Bool) : TestCut (u.hazard = false ∧ b = true) u (u.hazardTo b) := by
  unfold BeaconUnit.hazardTo
  split
  · rename_i hb
    exact testCut_of_same (by rw [hb]; rintro ⟨h, h'⟩; exact Bool.false_ne_true (h.symm.trans h')) rfl rfl
  · rename_i hb
    split
    · rename_i ht
      exact testCut_of_cut ⟨Bool.eq_false_iff.2 fun h => hb (ht.trans h.symm), ht⟩ rfl rfl
    · rename_i hf
      exact testCut_of_same (fun h => hf h.2) rfl rfl

theorem hazardTo_flash (u : BeaconUnit) (b : Bool) :
    (b = true → (u.hazardTo b).flash = if u.hazard = true then u.flash else { timer := some 500, on := true }) ∧
    (b = false → u.hazard = true → (u.hazardTo b).flash = { timer := none, on := false }) := by
  unfold BeaconUnit.hazardTo
  refine ⟨fun hb => ?_, fun hb hu => ?_⟩
  · subst hb
    cases u.hazard <;> rfl
  · rw [hb, hu]
    rfl

/-- The begin of a demand cuts the test. -/
theorem demandTo_test (u : BeaconUnit) (g : Group) (b : Bool) :
    TestCut ((u.get g).demanded = false ∧ b = true) u (u.demandTo g b) := by
  unfold BeaconUnit.demandTo
  split
  · rename_i hb
    exact testCut_of_same (by rw [hb]; rintro ⟨h, h'⟩; exact Bool.false_ne_true (h.symm.trans h')) rfl rfl
  · rename_i hb
    split
    · rename_i ht
      obtain ⟨htest, hslot, -⟩ := set_test u.cutTest g ((u.get g).demandChange true)
      exact testCut_of_cut ⟨Bool.eq_false_iff.2 fun h => hb (ht.trans h.symm), ht⟩ htest hslot
    · rename_i hf
      obtain ⟨htest, hslot, -⟩ := set_test u g ((u.get g).demandChange false)
      exact testCut_of_same (fun h => hf h.2) htest hslot

theorem demandTo_flash (u : BeaconUnit) (g : Group) (b : Bool) : (u.demandTo g b).flash = u.flash := by
  unfold BeaconUnit.demandTo
  split
  · rfl
  · split
    · rw [(set_test ..).2.2, cutTest_flash]
    · exact (set_test ..).2.2

/-- A group under its own demand (R176). -/
theorem demandTo_get_self (u : BeaconUnit) (g : Group) (b : Bool) : (u.demandTo g b).get g =
    if b = (u.get g).demanded then u.get g else (u.get g).demandChange b := by
  unfold BeaconUnit.demandTo
  split
  · rfl
  · split
    · rename_i hb
      rw [beacon_set_get, if_pos rfl, hb]
    · rename_i hb
      rw [beacon_set_get, if_pos rfl, Bool.not_eq_true] at *
      rw [hb]

theorem testFor_flash (u : BeaconUnit) (b : Bool) : (u.testFor b).flash = u.flash := by
  unfold BeaconUnit.testFor
  split
  · split <;> rfl
  · exact cutTest_flash u
  · rfl

/-- The start of the lamp test (R180). -/
theorem testFor_start {u : BeaconUnit} (hu : u.test = .notRun) :
    (u.testFor false).test = .notRun ∧
    ((u.hazard = true ∨ ∃ g, (u.get g).demanded = true) → (u.testFor true).test = .done) ∧
    (¬(u.hazard = true ∨ ∃ g, (u.get g).demanded = true) →
      (u.testFor true).test = .slot .rear ∧ (u.testFor true).slot = some 500) := by
  have hany : (u.hazard || allGroups.any fun g => (u.get g).demanded) = true ↔
      u.hazard = true ∨ ∃ g, (u.get g).demanded = true := by
    rw [Bool.or_eq_true, List.any_eq_true]
    exact or_congr_right (exists_congr fun g => and_iff_right (by cases g <;> decide))
  refine ⟨?_, fun h => ?_, fun h => ?_⟩
  · unfold BeaconUnit.testFor
    rw [hu]
    exact hu
  · unfold BeaconUnit.testFor
    rw [hu]
    dsimp only
    rw [if_pos (hany.2 h)]
  · unfold BeaconUnit.testFor
    rw [hu]
    dsimp only
    rw [if_neg (mt hany.1 h)]
    exact ⟨rfl, rfl⟩

/-- Leaving MEMBER cuts a test that runs (R180). -/
theorem testFor_test {u : BeaconUnit} (hu : u.test ≠ .notRun) (b : Bool) : TestCut (b = false) u (u.testFor b) := by
  cases b with
  | true =>
    have hsame : u.testFor true = u := by
      unfold BeaconUnit.testFor
      cases ht : u.test with
      | notRun => exact absurd ht hu
      | slot g => rfl
      | done => rfl
    rw [hsame]
    exact testCut_of_same nofun rfl rfl
  | false =>
    refine testCut_of_cut rfl ?_ ?_
    all_goals
      unfold BeaconUnit.testFor BeaconUnit.cutTest
      cases ht : u.test with
      | notRun => exact absurd ht hu
      | slot g => rfl
      | done => rfl

/-! ## The passes together -/

/-- The beacon controller before its lamp test pass. -/
def demanded (t : State) (b : BeaconUnit) : BeaconUnit :=
  ((((b.hazardTo t.hazardCause).demandTo .rear (t.demand .rear)).demandTo .kerb (t.demand .kerb)).demandTo .road
    (t.demand .road)).demandTo .flags (t.demand .flags)

/-- The group `g` as the demand `b` reaches it (R176). -/
def reached (x : GroupRec) (b : Bool) : GroupRec := if b = x.demanded then x else x.demandChange b

theorem demandTo_get_other (u : BeaconUnit) {g h : Group} (hgh : h ≠ g) (b : Bool) : (u.demandTo g b).get h = u.get h :=
  demandTo_get u g h fun e => absurd e hgh

theorem demanded_get (t : State) (b : BeaconUnit) (g : Group) :
    (demanded t b).get g = reached (b.get g) (t.demand g) := by
  have hself (u : BeaconUnit) (g : Group) (x : Bool) : (u.demandTo g x).get g = reached (u.get g) x :=
    demandTo_get_self u g x
  unfold demanded
  cases g with
  | rear =>
    rw [demandTo_get_other _ (by decide), demandTo_get_other _ (by decide), demandTo_get_other _ (by decide), hself,
      hazardTo_get]
  | kerb =>
    rw [demandTo_get_other _ (by decide), demandTo_get_other _ (by decide), hself, demandTo_get_other _ (by decide),
      hazardTo_get]
  | road =>
    rw [demandTo_get_other _ (by decide), hself, demandTo_get_other _ (by decide), demandTo_get_other _ (by decide),
      hazardTo_get]
  | flags =>
    rw [hself, demandTo_get_other _ (by decide), demandTo_get_other _ (by decide), demandTo_get_other _ (by decide),
      hazardTo_get]

theorem demanded_hazard (t : State) (b : BeaconUnit) : (demanded t b).hazard = t.hazardCause := by
  have hkeep (u : BeaconUnit) (g : Group) (x : Bool) : (u.demandTo g x).hazard = u.hazard :=
    (demandTo_demanded u g g x).2
  rw [demanded, hkeep, hkeep, hkeep, hkeep, (hazardTo_demanded b .rear _).2]

theorem demanded_flash (t : State) (b : BeaconUnit) : (demanded t b).flash = (b.hazardTo t.hazardCause).flash := by
  rw [demanded, demandTo_flash, demandTo_flash, demandTo_flash, demandTo_flash]

/-- Hazard's start and the begin of a demand cut the test. -/
theorem demanded_test (t : State) (b : BeaconUnit) :
    TestCut ((b.hazard = false ∧ t.hazardCause = true) ∨ ∃ g, (b.get g).demanded = false ∧ t.demand g = true) b
      (demanded t b) := by
  have hrear := (hazardTo_test b t.hazardCause).trans (demandTo_test _ .rear (t.demand .rear))
  have hkerb := hrear.trans (demandTo_test _ .kerb (t.demand .kerb))
  have hroad := hkerb.trans (demandTo_test _ .road (t.demand .road))
  refine (hroad.trans (demandTo_test _ .flags (t.demand .flags))).congr ?_
  rw [demandTo_get_other _ (by decide), demandTo_get_other _ (by decide), demandTo_get_other _ (by decide),
    demandTo_get_other _ (by decide), demandTo_get_other _ (by decide), demandTo_get_other _ (by decide), hazardTo_get,
    hazardTo_get, hazardTo_get, hazardTo_get, or_assoc, or_assoc, or_assoc]
  refine or_congr_right ⟨?_, ?_⟩
  · rintro (h | h | h | h)
    · exact ⟨.rear, h⟩
    · exact ⟨.kerb, h⟩
    · exact ⟨.road, h⟩
    · exact ⟨.flags, h⟩
  · rintro ⟨g, h⟩
    cases g with
    | rear => exact .inl h
    | kerb => exact .inr (.inl h)
    | road => exact .inr (.inr (.inl h))
    | flags => exact .inr (.inr (.inr h))

/-! ## The causes -/

theorem hazardCause_iff {s : State} (hr : s.straps.role = .beacon) : s.hazardCause = true ↔
    s.table.halt.latch ≠ none ∨ s.member.mstate = .isolated ∨ s.member.mstate = .barred ∨ s.member.mstate = .unfit := by
  rw [State.hazardCause, Bool.and_eq_true, Bool.or_eq_true, ClaimTable.latched_iff]
  cases s.member.mstate <;> simp [hr]

theorem zoneHeld_iff (s : State) (names : ResSet → Bool) : s.zoneHeld names = true ↔
    ∃ r ∈ s.table.claims, r.state = .granted ∧ names r.set = true := by
  rw [State.zoneHeld, holderOf, Option.isSome_map, List.find?_isSome]
  simp only [Bool.and_eq_true, beq_iff_eq]

theorem demand_iff (s : State) (g : Group) : s.demand g = true ↔ s.member.mstate = .member ∧
    match g with
    | .rear => s.zoneHeld ResSet.rear = true
    | .kerb => s.zoneHeld ResSet.kerb = true
    | .road => s.zoneHeld ResSet.road = true
    | .flags => s.memberOf .lift = none ∨ s.reportedUnfolded = true := by
  unfold State.demand
  rw [Bool.and_eq_true, beq_iff_eq]
  refine and_congr_right fun _ => ?_
  cases g with
  | rear | kerb | road => rfl
  | flags => rw [Bool.or_eq_true, Option.isNone_iff_eq_none]

/-- The LIFT of the roster is the lowest MEMBER entry of that role (R80). -/
theorem memberOf_lift_iff (s : State) (n : Node) : s.memberOf .lift = some n ↔
    ((s.entry n).state = .member ∧ (s.entry n).role = some .lift) ∧
      ∀ k, (s.entry k).state = .member ∧ (s.entry k).role = some .lift → n ≤ k := by
  have h := memberOf_iff s .lift n
  simp only [role_lift_iff] at h
  refine h.trans (and_congr_right fun _ => forall_congr' fun k => ?_)
  exact ⟨fun h hk => not_lt.1 fun hl => h hl hk, fun h hl hk => absurd hl (not_lt.2 (h hk))⟩

theorem memberOf_lift_none (s : State) : s.memberOf .lift = none ↔
    ∀ n, ¬((s.entry n).state = .member ∧ (s.entry n).role = some .lift) := by
  unfold State.memberOf State.members
  simp only [List.find?_eq_none, List.mem_filter, beq_iff_eq, role_lift_iff, not_and]
  exact ⟨fun h n hn => h n ⟨mem_allNodes n, hn⟩, fun h n hn => h n hn.2⟩

theorem reportedUnfolded_iff (s : State) : s.reportedUnfolded = true ↔ ∃ n, s.memberOf .lift = some n ∧
    (s.entry n).fresh = true ∧ ∀ x, (s.entry n).last = some x → x.conds.getLsbD 3 = false := by
  unfold State.reportedUnfolded
  cases hn : s.memberOf .lift with
  | none => simp
  | some n =>
    have hrole : (s.entry n).role = some .lift := ((memberOf_lift_iff s n).1 hn).1.2
    have hshows : (s.entry n).shows .folded = false ↔ ∀ x, (s.entry n).last = some x → x.conds.getLsbD 3 = false := by
      rw [Bool.eq_false_iff, Ne, shows_folded_lift hrole]
      simp only [not_exists, not_and, Bool.not_eq_true]
    simp [hshows]

/-! ## After an event -/

theorem reached_demanded (x : GroupRec) (b : Bool) : (reached x b).demanded = b := by
  unfold reached
  split
  · rename_i h
    exact h.symm
  · exact demandChange_demanded x b

/-- The states of a group by the begin and the end of its demand (R176). -/
theorem reached_eq (x : GroupRec) (b : Bool) : reached x b =
    if x.demanded = false ∧ b = true then
      (match x.state with
        | .dark => { state := .warming, timer := some 100, demanded := true }
        | .tail => { state := .lit, timer := none, demanded := true }
        | .warming | .lit | .failed => { x with demanded := true })
    else if x.demanded = true ∧ b = false then
      (match x.state with
        | .lit => { state := .tail, timer := some 2000, demanded := false }
        | .dark | .warming | .tail | .failed => { x with demanded := false })
    else x := by
  obtain ⟨st, timer, demanded⟩ := x
  cases demanded <;> cases b
  · rfl
  · cases st <;> rfl
  · cases st <;> rfl
  · rfl

theorem finish_beacon (old s : State) : (finish old s).beacon = beaconAfter (finish old s) s.beacon := by
  obtain ⟨l, q, ht⟩ := finish_like old s
  rw [ht]
  rfl

theorem finish_role (old s : State) : (finish old s).straps.role = s.straps.role := by
  rw [finish_straps]

theorem beaconAfter_eq {t : State} (hr : t.straps.role = .beacon) (b : BeaconUnit) :
    beaconAfter t b = (demanded t b).testFor (t.member.mstate == .member) := if_pos hr

section

variable {t : State} {b : BeaconUnit} (h : t.beacon = (demanded t b).testFor (t.member.mstate == .member))

include h

theorem beacon_hazard : t.beacon.hazard = t.hazardCause := by
  rw [h, (testFor_demanded _ .rear _).2, demanded_hazard]

theorem beacon_get (g : Group) : t.beacon.get g = reached (b.get g) (t.demand g) := by
  rw [h, testFor_get, demanded_get]

theorem beacon_demanded (g : Group) : (t.beacon.get g).demanded = t.demand g := by
  rw [beacon_get h, reached_demanded]

theorem beacon_flash : t.beacon.flash = (b.hazardTo t.hazardCause).flash := by
  rw [h, testFor_flash, demanded_flash]

/-- A lamp test that has begun is cut by hazard's start, the begin of a demand, and outside MEMBER (R180). -/
theorem beacon_test (hb : b.test ≠ .notRun) :
    TestCut ((b.hazard = false ∧ t.beacon.hazard = true) ∨
        (∃ g, (b.get g).demanded = false ∧ (t.beacon.get g).demanded = true) ∨ t.member.mstate ≠ .member) b t.beacon := by
  have hstart : (demanded t b).test ≠ .notRun := by
    have hcut := demanded_test t b
    cases hbt : b.test with
    | notRun => exact absurd hbt hb
    | done => rw [(hcut.done hbt).1]; nofun
    | slot g =>
      by_cases hp : (b.hazard = false ∧ t.hazardCause = true) ∨ ∃ g, (b.get g).demanded = false ∧ t.demand g = true
      · rw [(hcut.slotCut g hbt hp).1]; nofun
      · rw [(hcut.slotOn g hbt hp).1]; nofun
  have hall := (demanded_test t b).trans (testFor_test hstart (t.member.mstate == .member))
  rw [← h] at hall
  refine hall.congr ?_
  rw [beacon_hazard h, or_assoc, beq_eq_false_iff_ne]
  simp only [beacon_demanded h]

end

/-- Settles O54: hazard and its flash, the demands and their groups, and the lamp test after an event. -/
theorem beaconsFollowReplicaAndHazard : Obligations.BeaconsFollowReplicaAndHazard := by
  unfold Obligations.BeaconsFollowReplicaAndHazard
  intro old s hrole
  have hr : (finish old s).straps.role = .beacon := by rw [finish_role, hrole]
  have h := (finish_beacon old s).trans (beaconAfter_eq hr s.beacon)
  generalize finish old s = t at hr h
  intro _ hazard zone lift begins cut
  have hhazard : t.beacon.hazard = true ↔ hazard := by
    rw [beacon_hazard h]
    exact hazardCause_iff hr
  have hdemand (g : Group) : (t.beacon.get g).demanded = true ↔ t.demand g = true := by
    rw [beacon_demanded h]
  have hflash := hazardTo_flash s.beacon t.hazardCause
  rw [← beacon_flash h, ← beacon_hazard h] at hflash
  have hstart (hu : s.beacon.test = .notRun) := testFor_start ((demanded_test t s.beacon).notRun hu)
  refine ⟨hhazard, hflash.1, hflash.2, ?_, ?_, ?_, ?_, fun g => ?_, fun hu hm => ?_, fun hu hm => ?_, fun g hu => ?_,
    fun hu => ?_⟩
  · exact ((hdemand .rear).trans (demand_iff t .rear)).trans (and_congr_right fun _ => zoneHeld_iff t ResSet.rear)
  · exact ((hdemand .kerb).trans (demand_iff t .kerb)).trans (and_congr_right fun _ => zoneHeld_iff t ResSet.kerb)
  · exact ((hdemand .road).trans (demand_iff t .road)).trans (and_congr_right fun _ => zoneHeld_iff t ResSet.road)
  · refine ((hdemand .flags).trans (demand_iff t .flags)).trans (and_congr_right fun _ => or_congr (memberOf_lift_none t) ?_)
    refine (reportedUnfolded_iff t).trans (exists_congr fun n => ?_)
    rw [memberOf_lift_iff, and_assoc]
  · have hget : t.beacon.get g = reached (s.beacon.get g) (t.beacon.get g).demanded := by
      rw [beacon_demanded h, beacon_get h]
    exact hget.trans (reached_eq _ _)
  · rw [h, beq_eq_false_iff_ne.2 hm]
    exact (hstart hu).1
  · intro any
    obtain ⟨-, hdone, hslot⟩ := hstart hu
    have hbeacon : t.beacon = (demanded t s.beacon).testFor true := by
      rw [h, hm]
      rfl
    have hget (g : Group) : t.beacon.get g = (demanded t s.beacon).get g := by rw [hbeacon, testFor_get]
    have hsame : t.beacon.hazard = (demanded t s.beacon).hazard := by
      rw [hbeacon, (testFor_demanded _ .rear true).2]
    have hany : any ↔ (demanded t s.beacon).hazard = true ∨ ∃ g, ((demanded t s.beacon).get g).demanded = true := by
      rw [← hsame]
      exact or_congr_right (exists_congr fun g => by rw [← hget])
    rw [← hbeacon] at hdone hslot
    exact ⟨fun ha => hdone (hany.1 ha), fun ha => hslot (mt hany.2 ha)⟩
  · have htest := beacon_test h (by rw [hu]; nofun)
    exact ⟨htest.slotCut g hu, htest.slotOn g hu⟩
  · exact ((beacon_test h (by rw [hu]; nofun)).done hu).1

end Sys2Proof.BeaconPasses
end

section
/-! O49: what a step reads (R77, R80, R89), and the catalogue of the steps (R86, R94, R95). -/

namespace Sys2Proof.StepReads

open Sys2Proof.Machine Sys2Proof.Laws Sys2Proof.Readings

/-! ## Terms -/

/-- The term of another node's role holds by the MEMBER entry of that role alone (R80). -/
theorem peerTerm_iff (s : State) (r : Role) (c : Cond) (v : Bool) : s.peerTerm r c v = true ↔
    ∃ n, s.memberOf r = some n ∧ (s.entry n).heard = true ∧ (s.entry n).fresh = true ∧
      ((s.entry n).shows c = true ↔ v = true) := by
  unfold State.peerTerm
  cases s.memberOf r with
  | none => simp
  | some n =>
    have hv : (s.entry n).shows c = v ↔ ((s.entry n).shows c = true ↔ v = true) := Bool.eq_iff_iff
    rw [Bool.and_eq_true, Bool.and_eq_true, beq_iff_eq, hv, and_assoc]
    exact ⟨fun h => ⟨n, rfl, h⟩, fun ⟨k, hk, h⟩ => Option.some.inj hk ▸ h⟩

/-- A condition that an entry of a known role shows, at the condition's position (R78). -/
theorem shows_of_role {e : Entry} {r : Role} (hr : e.role.map RoleSide.role = some r) (c : Cond) : e.shows c = true ↔
    ∃ x, e.last = some x ∧ ∃ i : Fin 16, (condsOf (some r))[i.val]? = some c ∧ x.conds.getLsbD i.val = true := by
  rw [shows_iff, hr]
  exact exists_congr fun x => and_congr_right fun _ => condIn_iff _ _ _

theorem term_peer_own {s : State} {r : Role} (hr : s.straps.role = r) (c : Cond) (v : Bool) :
    s.term (.peer r c v) = true ↔ s.cond c = v := by
  rw [State.term, if_pos hr, beq_iff_eq]

theorem term_peer {s : State} {r : Role} (hr : s.straps.role ≠ r) (c : Cond) (v : Bool) :
    s.term (.peer r c v) = s.peerTerm r c v := by
  rw [State.term, if_neg hr]

theorem interlock_iff (s : State) (d : StepDef) : s.interlock d = true ↔ ∀ t ∈ d.interlock, s.term t = true := by
  rw [State.interlock, List.all_eq_true]

/-! ## Own conditions -/

theorem groupLit_iff (s : State) (g : Group) : s.groupLit g = true ↔
    s.straps.role = .beacon ∧ (s.beacon.get g).state = .lit ∧ s.beacon.hazard = false := by
  simp only [State.groupLit, Bool.and_eq_true, beq_iff_eq, Bool.not_eq_true', and_assoc]

theorem groupFailed_iff (s : State) (g : Group) : s.groupFailed g = true ↔
    s.straps.role = .beacon ∧ (s.beacon.get g).state = .failed := by
  simp only [State.groupFailed, Bool.and_eq_true, beq_iff_eq]

/-- A latch of an output is set (R70). -/
theorem outLatch_any (v : Vector Bool 12) : v.toList.any id = true ↔ ∃ o : Fin 12, v[o] = true := by
  rw [List.any_eq_true]
  constructor
  · rintro ⟨x, hx, ht⟩
    obtain ⟨i, hi, rfl⟩ := List.mem_iff_getElem.1 hx
    rw [Vector.length_toList] at hi
    exact ⟨⟨i, hi⟩, by simpa using ht⟩
  · rintro ⟨o, ho⟩
    exact ⟨v[o], by simp, ho⟩

/-- FAULT, by the blocks it reads (R77). -/
theorem fault_iff (s : State) : s.fault = true ↔ (∃ x, (s.chans.get x).state = .faulted) ∨
    (∃ o : Fin 12, s.lines.outLatch[o] = true) ∨
    (∃ g, s.straps.role = .beacon ∧ (s.beacon.get g).state = .failed) ∨
    (s.straps.role = .lift ∧ s.pump.faulty = true) := by
  have hchans : (allChans.any fun c => (s.chans.get c).state == .faulted) = true ↔
      ∃ x, (s.chans.get x).state = .faulted := by
    rw [List.any_eq_true]
    exact exists_congr fun x => (and_iff_right (by cases x <;> decide)).trans beq_iff_eq
  have hgroups : allGroups.any s.groupFailed = true ↔
      ∃ g, s.straps.role = .beacon ∧ (s.beacon.get g).state = .failed := by
    rw [List.any_eq_true]
    exact exists_congr fun g => (and_iff_right (by cases g <;> decide)).trans (groupFailed_iff s g)
  rw [State.fault, Bool.or_eq_true, Bool.or_eq_true, Bool.or_eq_true, hchans, outLatch_any, hgroups, Bool.and_eq_true,
    beq_iff_eq, or_assoc, or_assoc]

theorem stopPressed_iff (s : State) : s.stopPressed = true ↔
    s.lines.inputs[(0 : Fin 16)].active = true ∨ (s.straps.role = .lift ∧ s.lines.inputs[(9 : Fin 16)].active = true) := by
  simp only [State.stopPressed, State.input, Bool.or_eq_true, Bool.and_eq_true, beq_iff_eq]

/-- A condition of a role that stands by a level of the node (R77). -/
theorem role_and_iff (s : State) (r : Role) (b : Bool) : (s.straps.role == r && b) = true ↔
    s.straps.role = r ∧ b = true := by
  rw [Bool.and_eq_true, beq_iff_eq]

/-! ## The catalogue -/

theorem stepOf_eq (s : State) (e : RunEntry) :
    s.stepOf e = if e.idx = 0 then none else (e.man.steps s.straps.side)[e.idx - 1]? := by
  unfold State.stepOf Manoeuvre.step
  cases e.idx with
  | zero => rfl
  | succ k => rfl

theorem fitRow_of (s : State) : s.fitRow = fitTable (match s.member.bodyFit with | some f => f | none => s.straps.fit) := by
  unfold State.fitRow
  cases s.member.bodyFit <;> rfl

/-- Settles O49: the terms, the own conditions, the catalogue tables, and the fitting row. -/
theorem stepsReadConditionsRosterAndCatalogue : Obligations.StepsReadConditionsRosterAndCatalogue := by
  unfold Obligations.StepsReadConditionsRosterAndCatalogue
  refine ⟨fun s => ?_, fun s c => ?_, fun side => ?_, stepOf_eq, fun m => ?_, ⟨rfl, rfl, rfl, rfl, rfl, rfl⟩, fun s => ?_⟩
  · intro positions holds shown
    refine ⟨fun c v => beq_iff_eq, fun c d => Bool.or_eq_true _ _ ▸ Iff.rfl, fun r c v _ =>
      ⟨fun hr => term_peer_own hr c v, fun hr => ?_⟩, interlock_iff s, rfl⟩
    have hpositions : condsOf (some r) = positions r := by cases r <;> rfl
    rw [term_peer hr, peerTerm_iff]
    refine exists_congr fun n => ?_
    have hmember : s.memberOf r = some n ↔ holds n r ∧ ∀ k, k < n → ¬holds k r := memberOf_iff s r n
    rw [hmember, and_assoc]
    refine and_congr_right fun hn => and_congr_right fun _ => and_congr_right fun _ => and_congr_right fun _ => ?_
    rw [shows_of_role hn.2, hpositions]
  · intro is active lit failed stands
    cases c with
    | runActive => exact Option.isSome_iff_ne_none
    | fault => exact fault_iff s
    | stopPressed => exact stopPressed_iff s
    | brakeSet | standstill | bodyOn => exact role_and_iff s .cab _
    | folded | unfolded | atFloor | atBed | level | pumpRunning => exact role_and_iff s .lift _
    | pressureUp => exact PumpService.pressureUp_iff s
    | pumpResting => exact (role_and_iff s .lift _).trans (and_congr_right fun _ => Option.isSome_iff_ne_none)
    | pumpDemand => exact pumpDemand_iff s
    | latched | openFull => exact role_and_iff s .hatch _
    | edgeClear =>
      exact (role_and_iff s .hatch _).trans (and_congr_right fun _ => by rw [Bool.not_eq_true', ← Bool.not_eq_true]; rfl)
    | rearLit | kerbLit | roadLit | flagsLit => exact groupLit_iff s _
    | rearFailed | kerbFailed | roadFailed | flagsFailed => exact groupFailed_iff s _
    | hazard => exact role_and_iff s .beacon _
  · cases side <;> exact ⟨rfl, rfl, rfl, rfl, rfl, rfl, rfl, rfl, rfl, rfl⟩
  · cases m <;> rfl
  · intro code
    rw [show s.fitRow = fitTable code from fitRow_of s]
    generalize code = x
    revert x
    decide

end Sys2Proof.StepReads
end

section
/-! O55: the level of every output, read from its block (R70, R140, R174, R181 to R185). -/

namespace Sys2Proof.Outputs

open Sys2Proof.Machine Sys2Proof.Laws Sys2Proof.BeaconPasses

/-! ## The block of an output -/

theorem ofBool_on_iff (b : Bool) : Drive.ofBool b = .on ↔ b = true := by
  cases b <;> decide

theorem output_of_chan {s : State} {o : Fin 12} {c : Chan} (h : s.straps.role.chanOfOutput o = some c) :
    s.output o = (s.chans.get c).state.output (o.val - chanFirstOutput c) := by
  unfold State.output
  rw [h]

theorem output_of_group {s : State} {o : Fin 12} {g : Group} (hc : s.straps.role.chanOfOutput o = none)
    (hg : s.straps.role.groupOfOutput o = some g) : s.output o = Drive.ofBool (s.groupDriven g) := by
  unfold State.output
  rw [hc, hg]

/-- An output of no channel and no group (R70). -/
theorem output_of_none {s : State} {o : Fin 12} (hc : s.straps.role.chanOfOutput o = none)
    (hg : s.straps.role.groupOfOutput o = none) : s.output o =
      if o = 11 then Drive.ofBool s.nodeOkOn
      else if s.straps.role = .cab then
        (if o = 0 then Drive.ofBool s.bodyActive else if o = 1 then Drive.ofBool s.faultLamp
        else if o = 2 then Drive.ofBool s.buzzer else .off)
      else if s.straps.role = .lift ∧ o = 9 then Drive.ofBool s.pump.on
      else .off := by
  unfold State.output
  rw [hc, hg]
  dsimp only
  cases s.straps.role <;> simp

/-- The outputs of a channel: its selector or solenoid, and for a CIRCUIT two directions (R88). -/
theorem chanOfOutput_of {r : Role} {c : Chan} {o : Fin 12} (hc : c ∈ r.chans)
    (ho : o.val = chanFirstOutput c ∨ c ≠ .latch ∧ (o.val = chanFirstOutput c + 1 ∨ o.val = chanFirstOutput c + 2)) :
    r.chanOfOutput o = some c := by
  revert o
  cases r <;> cases c <;> revert hc <;> decide

theorem nodeOk_output (r : Role) : r.chanOfOutput 11 = none ∧ r.groupOfOutput 11 = none := by
  cases r <;> decide

/-! ## Channels -/

theorem output_selector (x : ChanState) : x.output 0 =
    match x with
    | .opening => .pullIn
    | .opened | .driving _ | .holding => .hold
    | .closed | .relieving | .resting | .faulted => .off := by
  cases x <;> rfl

/-- An output of a direction is driven by that direction alone (R140). -/
theorem output_direction {x : ChanState} {k : Nat} (hk : k ≠ 0) (h : x.output k ≠ .off) :
    x.output k = .on ∧ ∃ d, x = .driving d ∧ d.output = k := by
  cases x with
  | driving d =>
    have hout : (ChanState.driving d).output k = if d.output = k then .on else .off := if_neg hk
    rw [hout] at h ⊢
    by_cases hd : d.output = k
    · rw [if_pos hd]
      exact ⟨rfl, d, rfl, hd⟩
    · rw [if_neg hd] at h
      exact absurd rfl h
  | opening | opened | holding => exact absurd (if_neg hk) h
  | closed | relieving | resting | faulted => exact absurd rfl h

theorem output_driving {d : Dir} (hd : d ≠ .release) : (ChanState.driving d).output d.output = .on := by
  cases d with
  | release => exact absurd rfl hd
  | up | down | inward | outward | openDir | closeDir => rfl

theorem dirOutput_one_iff (d : Dir) : d.output = 1 ↔ d = .up ∨ d = .inward ∨ d = .openDir := by
  cases d <;> decide

theorem dirOutput_two_iff (d : Dir) : d.output = 2 ↔ d = .down ∨ d = .outward ∨ d = .closeDir := by
  cases d <;> decide

theorem dirOutput_eq {d : Dir} (hd : d ≠ .release) :
    d.output = if d = .up ∨ d = .inward ∨ d = .openDir then 1 else 2 := by
  revert hd
  cases d <;> decide

/-! ## Lamps -/

theorem groupDriven_iff (s : State) (g : Group) : s.groupDriven g = true ↔
    if s.beacon.hazard = true then s.beacon.flash.on = true
    else s.beacon.test = .slot g ∨ (s.beacon.get g).state = .warming ∨ (s.beacon.get g).state = .lit ∨
      (s.beacon.get g).state = .tail := by
  unfold State.groupDriven
  split
  · rfl
  · split
    · rename_i ht
      simp only [ht, true_or]
    · rename_i ht
      cases (s.beacon.get g).state <;> simp [ht]

theorem nodeOkOn_iff (s : State) : s.nodeOkOn = true ↔
    s.member.mstate = .member ∨ (s.member.mstate ≠ .start ∧ s.nodeOk.on = true) := by
  unfold State.nodeOkOn
  cases s.member.mstate <;> simp

/-! ## The lamps of the CAB -/

/-- A condition that a MEMBER entry shows, the node's own by its own condition (R181, R182). -/
theorem memberShows_iff (s : State) (c : Cond) : s.memberShows c = true ↔ ∃ n, (s.entry n).state = .member ∧
    (if n = s.own then s.cond c = true else (s.entry n).shows c = true) := by
  simp only [State.memberShows, State.members, List.any_eq_true, List.mem_filter, beq_iff_eq, mem_allNodes, true_and]
  refine exists_congr fun n => and_congr_right fun _ => ?_
  split <;> rfl

theorem bodyActive_iff (s : State) : s.bodyActive = true ↔ s.member.mstate = .member ∧ ∃ n, (s.entry n).state = .member ∧
    (if n = s.own then s.cond .runActive = true else (s.entry n).shows .runActive = true) := by
  rw [State.bodyActive, Bool.and_eq_true, beq_iff_eq, memberShows_iff]

theorem faultLamp_not_member {s : State} (h : s.member.mstate ≠ .member) : s.faultLamp = true := by
  rw [State.faultLamp, if_pos (bne_iff_ne.2 h)]

theorem faultLamp_latched {s : State} (h : s.member.mstate = .member) (hl : s.table.halt.latch ≠ none) :
    s.faultLamp = s.cab.on := by
  rw [State.faultLamp, if_neg (by rw [h]; decide), if_pos ((ClaimTable.latched_iff s).2 hl)]

theorem faultLamp_clear {s : State} (h : s.member.mstate = .member) (hl : s.table.halt.latch = none) :
    s.faultLamp = true ↔ (∃ n, (s.entry n).state = .member ∧
        (if n = s.own then s.cond .fault = true else (s.entry n).shows .fault = true)) ∨
      ∃ n, (s.entry n).state = .absent ∨ (s.entry n).state = .barred := by
  rw [State.faultLamp, if_neg (by rw [h]; decide), if_neg fun h' => (ClaimTable.latched_iff s).1 h' hl, Bool.or_eq_true,
    memberShows_iff, List.any_eq_true]
  refine or_congr_right (exists_congr fun n => ?_)
  rw [and_iff_right (mem_allNodes n), Bool.or_eq_true, beq_iff_eq, beq_iff_eq]

theorem buzzer_iff (s : State) : s.buzzer = true ↔ s.member.mstate = .member ∧ s.lines.standstill = false ∧
    ((∃ r ∈ s.table.claims, r.state = .granted ∧ (r.set.rear || r.set.kerb || r.set.road) = true) ∨
      s.reportedUnfolded = true) := by
  rw [State.buzzer, Bool.and_eq_true, Bool.and_eq_true, beq_iff_eq, Bool.not_eq_true', Bool.or_eq_true, Bool.or_eq_true,
    Bool.or_eq_true, zoneHeld_iff, zoneHeld_iff, zoneHeld_iff, and_assoc]
  refine and_congr_right fun _ => and_congr_right fun _ => or_congr_left ?_
  simp only [Bool.or_eq_true]
  constructor
  · rintro ((⟨r, hr, hg, h⟩ | ⟨r, hr, hg, h⟩) | ⟨r, hr, hg, h⟩)
    · exact ⟨r, hr, hg, .inl (.inl h)⟩
    · exact ⟨r, hr, hg, .inl (.inr h)⟩
    · exact ⟨r, hr, hg, .inr h⟩
  · rintro ⟨r, hr, hg, (h | h) | h⟩
    · exact .inl (.inl ⟨r, hr, hg, h⟩)
    · exact .inl (.inr ⟨r, hr, hg, h⟩)
    · exact .inr ⟨r, hr, hg, h⟩

/-- The outputs of the CAB (R181 to R184). -/
theorem output_cab {s : State} (hr : s.straps.role = .cab) : s.output 0 = Drive.ofBool s.bodyActive ∧
    s.output 1 = Drive.ofBool s.faultLamp ∧ s.output 2 = Drive.ofBool s.buzzer := by
  have hnone (o : Fin 12) : s.straps.role.chanOfOutput o = none ∧ s.straps.role.groupOfOutput o = none := by
    rw [hr]
    exact ⟨rfl, rfl⟩
  refine ⟨?_, ?_, ?_⟩
  all_goals
    rw [output_of_none (hnone _).1 (hnone _).2, hr]
    rfl

/-- The outputs beyond those that a role gives a meaning have none. -/
theorem no_block {r : Role} {o : Fin 12}
    (h : (match r with | .cab => 2 | .lift => 9 | .hatch => 3 | .beacon => 5) < o.val) :
    r.chanOfOutput o = none ∧ r.groupOfOutput o = none := by
  revert o
  cases r <;> decide

/-- Settles O55, by the block of each output. -/
theorem outputsFollowTheirBlocks : Obligations.OutputsFollowTheirBlocks := by
  unfold Obligations.OutputsFollowTheirBlocks
  intro s
  refine ⟨fun c hc o ho => ?_, fun c hc hl o ho hoff => ?_, fun c hc hl d o hd ho hrel => ?_, fun hr => ?_,
    fun hr x hx => ?_, ?_, fun hr => ?_, fun o ho h => ?_⟩
  · rw [output_of_chan (chanOfOutput_of hc (.inl ho)), ho, Nat.sub_self]
    exact output_selector _
  · have hout := output_of_chan (s := s) (chanOfOutput_of hc (.inr ⟨hl, ho⟩))
    rw [hout] at hoff
    obtain ⟨hon, d, hd, hk⟩ := output_direction (by omega) hoff
    refine ⟨hout.trans hon, d, hd, ?_⟩
    rcases ho with ho | ho
    · exact .inl ⟨(dirOutput_one_iff d).1 (by omega), ho⟩
    · exact .inr ⟨(dirOutput_two_iff d).1 (by omega), ho⟩
  · rw [← dirOutput_eq hrel] at ho
    have hrange : d.output = 1 ∨ d.output = 2 := by
      rw [dirOutput_eq hrel]
      split
      · exact .inl rfl
      · exact .inr rfl
    rw [output_of_chan (chanOfOutput_of hc (.inr ⟨hl, by omega⟩)), hd, ho, Nat.add_sub_cancel_left]
    exact output_driving hrel
  · rw [output_of_none (by rw [hr]; decide) (by rw [hr]; decide), hr]
    exact ofBool_on_iff _
  · have hblock : Role.beacon.chanOfOutput x.1 = none ∧ Role.beacon.groupOfOutput x.1 = some x.2 := by
      revert x
      decide
    rw [output_of_group (g := x.2) (by rw [hr]; exact hblock.1) (by rw [hr]; exact hblock.2), ofBool_on_iff]
    exact groupDriven_iff s x.2
  · rw [output_of_none (nodeOk_output _).1 (nodeOk_output _).2, if_pos rfl, ofBool_on_iff]
    exact nodeOkOn_iff s
  · obtain ⟨hactive, hfault, hbuzzer⟩ := output_cab hr
    rw [hactive, hfault, hbuzzer, ofBool_on_iff, ofBool_on_iff, ofBool_on_iff]
    exact ⟨bodyActive_iff s, faultLamp_not_member, fun hm hl => by rw [faultLamp_latched hm hl], faultLamp_clear,
      buzzer_iff s⟩
  · obtain ⟨hc, hg⟩ := no_block h
    rw [output_of_none hc hg, if_neg ho]
    cases hr : s.straps.role with
    | cab =>
      rw [hr] at h
      rw [if_pos rfl, if_neg (by rintro rfl; exact absurd h (by decide)), if_neg (by rintro rfl; exact absurd h (by decide)),
        if_neg (by rintro rfl; exact absurd h (by decide))]
    | lift =>
      rw [hr] at h
      rw [if_neg nofun, if_neg]
      rintro ⟨-, rfl⟩
      exact absurd h (by decide)
    | hatch | beacon => rfl

end Sys2Proof.Outputs
end

section
/-! O50: the posture unit (R82), whose notes follow every change within an event, and the time tag (R186). -/

namespace Sys2Proof.PostureNotes

open Sys2Proof.Machine Sys2Proof.Laws Sys2Proof.BlockLaws Sys2Proof.EngineBlocks

/-! ## What is published -/

/-- The run state of a phase (R100). -/
def phaseState : Option RunPhase → RunState
  | none => .idle
  | some .claiming => .claiming
  | some .running => .running
  | some .paused => .paused
  | some .ending => .ending

/-- The phase that a run state shows. -/
def statePhase : RunState → Option RunPhase
  | .idle => none
  | .claiming => some .claiming
  | .running => some .running
  | .paused => some .paused
  | .ending => some .ending

theorem phaseState_injective : Function.Injective phaseState :=
  Function.LeftInverse.injective (g := statePhase) fun x => by
    cases x with
    | none => rfl
    | some p => cases p <;> rfl

theorem runState_eq (s : State) : s.runState = phaseState (s.runs.run.map Run.phase) := by
  unfold State.runState
  cases s.runs.run with
  | none => rfl
  | some r => cases hp : r.phase <;> simp only [Option.map_some, hp] <;> rfl

/-- What the posture unit watches changes with the conditions, the summary, the phase of the run or the latch. -/
theorem posted_eq_iff (s t : State) : s.posted = t.posted ↔
    (s.condWord, s.summary, s.runs.run.map Run.phase, s.table.halt.latch.isSome) =
      (t.condWord, t.summary, t.runs.run.map Run.phase, t.table.halt.latch.isSome) := by
  simp only [State.posted, Prod.mk.injEq, runState_eq, phaseState_injective.eq_iff, State.latched]

theorem markChange_posted (s : State) : s.markChange.posted = s.posted := rfl

theorem queue_posted (s : State) (f : TxFrame) : (s.queue f).posted = s.posted := by
  rw [queue_eq]
  rfl

/-- A note changes nothing of what is published. -/
theorem noteChange_posted (old s : State) : (State.noteChange old s).posted = s.posted := by
  rcases noteChange_cases old s with h | ⟨-, h | h | h⟩ <;> rw [h]
  · exact queue_posted s .posture
  · exact markChange_posted s
  · rw [markChange_posted, queue_posted]

/-! ## One note -/

theorem noteChange_unchanged {old s : State} (h : old.posted = s.posted) : State.noteChange old s = s := by
  unfold State.noteChange
  exact if_neg fun hn => hn.2 h

section

variable {old s : State} (hm : s.member.mstate = .member) (h : old.posted ≠ s.posted)

include hm h

theorem noteChange_spaced (hs : s.post.spacing ≠ none) : State.noteChange old s = s.markChange := by
  obtain ⟨n, hn⟩ := Option.ne_none_iff_exists'.1 hs
  unfold State.noteChange
  rw [if_pos ⟨hm, h⟩, hn]

theorem noteChange_free (hs : s.post.spacing = none) : State.noteChange old s =
    if s.link.line.isSending .posture none = true then (s.queue .posture).markChange else s.queue .posture := by
  unfold State.noteChange
  rw [if_pos ⟨hm, h⟩, hs]

end

/-- A change of what is published is on its way out (R82). -/
def Noted (s : State) : Prop :=
  (s.post.spacing ≠ none → s.post.changed = true) ∧
    (s.post.spacing = none → s.pends .posture ∧
      (s.link.line.isSending .posture none = true → s.post.changed = true))

theorem queue_post (s : State) (f : TxFrame) : (s.queue f).post = s.post := by
  rw [queue_eq]

theorem queue_pends_posture {s : State} (hm : s.member.mstate = .member) : (s.queue .posture).pends .posture :=
  pends_queue_self .posture (by simp [State.mayQueue, hm])

/-- A change that is noted is on its way out. -/
theorem noteChange_noted {old s : State} (hm : s.member.mstate = .member) (h : old.posted ≠ s.posted) :
    Noted (State.noteChange old s) := by
  by_cases hs : s.post.spacing = none
  · rw [noteChange_free hm h hs]
    have hpends := queue_pends_posture hm
    have hpost := queue_post s .posture
    split
    · exact ⟨fun _ => rfl, fun _ => ⟨hpends, fun _ => rfl⟩⟩
    · rename_i hline
      refine ⟨fun hn => absurd hs (hpost ▸ hn), fun _ => ⟨hpends, fun hsend => absurd ?_ hline⟩⟩
      rwa [(outer_fields (queue_outer s .posture)).2.2.2.2.2.2.2.2.2.1] at hsend
  · rw [noteChange_spaced hm h hs]
    exact ⟨fun _ => rfl, fun hn => absurd hn hs⟩

/-! ## The notes of an event -/

/-- A property of the states between the moves and passes of an event, each of them noted. -/
theorem finish_chain {P : State → Prop} {old s : State} (hstart : P (State.noteChange old s))
    (hmove : ∀ u v, engineMove u = some v → P u → P (State.noteChange u v))
    (hpass : ∀ f ∈ passes, ∀ u, P u → P (State.noteChange u (f u))) : P (finish old s) := by
  have hsettle (n : Nat) : ∀ u, P u → P (settle n u) := by
    induction n with
    | zero => exact fun u h => h
    | succ n ih =>
      intro u h
      cases hm : engineMove u with
      | none => rwa [settle_of_none hm]
      | some v =>
        rw [settle_of_move hm]
        exact ih _ (hmove u v hm h)
  have hfold (l : List (State → State)) (hl : ∀ f ∈ l, ∀ u, P u → P (State.noteChange u (f u))) :
      ∀ u, P u → P (l.foldl (fun t f => State.noteChange t (f t)) u) := by
    induction l with
    | nil => exact fun u h => h
    | cons f l ih =>
      exact fun u h => ih (fun g hg => hl g (List.mem_cons_of_mem f hg)) _ (hl f List.mem_cons_self u h)
  unfold finish follow
  exact hfold passes hpass _ (hsettle settleFuel _ hstart)

/-- What moves and passes leave of the posture unit and of what it has queued. -/
structure Leaves (u v : State) : Prop where
  member : v.member = u.member
  post : v.post = u.post
  line : v.link.line = u.link.line
  pends : u.pends .posture → v.pends .posture

theorem Leaves.noted {u v : State} (h : Leaves u v) (hu : Noted u) : Noted v := by
  unfold Noted
  rw [h.post, h.line]
  exact ⟨hu.1, fun hs => ⟨h.pends (hu.2 hs).1, (hu.2 hs).2⟩⟩

theorem engineMove_leaves {u v : State} (h : engineMove u = some v) : Leaves u v := by
  have houter := outer_fields (engineMove_outer h)
  have hblocks := engineMove_blocks h
  simp only [blocks, Prod.mk.injEq] at hblocks
  exact ⟨houter.2.2.1, hblocks.2.2.2.2, houter.2.2.2.2.2.2.2.2.2.1, (engineMove_follows h).pends nofun nofun⟩

theorem passes_post : ∀ f ∈ passes, ∀ s, (f s).post = s.post := by
  refine passes_cases ?_ (fun _ => rfl) ?_ ?_ ?_ ?_ ?_ (fun _ => rfl) ?_
  · intro s
    unfold snapshotPass
    split
    · rfl
    · split
      · exact queue_post s .snapshot
      · rfl
  · intro g s
    unfold demandPass
    split <;> rfl
  · intro s
    unfold lampTestPass
    split <;> rfl
  · intro s
    unfold cabPass
    split <;> rfl
  · intro s
    unfold nodeOkPass
    split <;> rfl
  · intro s
    unfold believePass
    split <;> rfl
  · intro s
    unfold plausPass
    split <;> rfl

theorem pass_leaves {f : State → State} (hf : f ∈ passes) (u : State) : Leaves u (f u) := by
  have houter := outer_fields (passes_outer f hf u)
  exact ⟨houter.2.2.1, passes_post f hf u, houter.2.2.2.2.2.2.2.2.2.1, (passes_follows f hf u).pends nofun nofun⟩

/-- A change of what is published, over an event, is on its way out at its end (R82). -/
theorem finish_noted {old s : State} (hm : s.member.mstate = .member) (h : old.posted ≠ (finish old s).posted) :
    Noted (finish old s) := by
  have hstep {u v : State} (hleaves : Leaves u v)
      (hu : u.member.mstate = .member ∧ (old.posted ≠ u.posted → Noted u)) :
      (State.noteChange u v).member.mstate = .member ∧
        (old.posted ≠ (State.noteChange u v).posted → Noted (State.noteChange u v)) := by
    have hv : v.member.mstate = .member := hleaves.member ▸ hu.1
    have hmember := (outer_fields (noteChange_outer u v)).2.2.1
    refine ⟨hmember ▸ hv, fun hne => ?_⟩
    by_cases heq : u.posted = v.posted
    · rw [noteChange_posted, ← heq] at hne
      rw [noteChange_unchanged heq]
      exact hleaves.noted (hu.2 hne)
    · exact noteChange_noted hv heq
  have key := finish_chain (P := fun u => u.member.mstate = .member ∧ (old.posted ≠ u.posted → Noted u))
    (old := old) (s := s) ?_ (fun u v hv hu => hstep (engineMove_leaves hv) hu)
    (fun f hf u hu => hstep (pass_leaves hf u) hu)
  · exact key.2 h
  · have hmember := (outer_fields (noteChange_outer old s)).2.2.1
    refine ⟨hmember ▸ hm, fun hne => ?_⟩
    rw [noteChange_posted] at hne
    exact noteChange_noted hm hne

/-! ## The timers -/

theorem exec_period {s : State} (hm : s.member.mstate = .member) (hp : s.post.period ≠ none) :
    exec .posturePeriodTimer s = .next (State.queue { s with post := { s.post with period := some 50 } } .posture) := by
  obtain ⟨n, hn⟩ := Option.ne_none_iff_exists'.1 hp
  change execPosturePeriodTimer s = _
  unfold execPosturePeriodTimer
  rw [hn, hm]
  rfl

theorem exec_period_idle {s : State} (h : s.post.period = none ∨ s.member.mstate ≠ .member) :
    exec .posturePeriodTimer s = .next s := by
  change execPosturePeriodTimer s = _
  unfold execPosturePeriodTimer
  split
  · rename_i hp hm
    rcases h with h | h
    · exact nomatch h.symm.trans hp
    · exact absurd hm h
  · rfl

theorem exec_spacing {s : State} (h : s.post.spacing ≠ none) : exec .postureSpacingTimer s = .next
    (if s.post.changed = true then State.queue { s with post := { s.post with spacing := none } } .posture
     else { s with post := { s.post with spacing := none } }) := by
  obtain ⟨n, hn⟩ := Option.ne_none_iff_exists'.1 h
  change execPostureSpacingTimer s = _
  unfold execPostureSpacingTimer
  rw [hn]

theorem exec_spacing_idle {s : State} (h : s.post.spacing = none) : exec .postureSpacingTimer s = .next s := by
  change execPostureSpacingTimer s = _
  unfold execPostureSpacingTimer
  rw [h]

/-- Settles O50: the notes of an event and one note alone, and the timers of the posture unit with the time tag. -/
theorem posturesFollowChangesAndTimers : Obligations.PosturesFollowChangesAndTimers := by
  unfold Obligations.PosturesFollowChangesAndTimers
  refine ⟨fun old s hm => ?_, fun old s h => noteChange_of_not_member h, fun s =>
    ⟨exec_period, exec_period_idle, fun h => exec_spacing h, exec_spacing_idle, rfl⟩⟩
  have hnoted : old.posted ≠ (finish old s).posted → Noted (finish old s) := finish_noted hm
  generalize finish old s = t at hnoted
  intro shown _ u
  have hshown (x y : State) : x.posted = y.posted ↔ shown x = shown y := posted_eq_iff x y
  refine ⟨fun h => hnoted (mt (hshown old t).1 h), fun h => ?_, fun h => noteChange_unchanged ((hshown old s).2 h)⟩
  have hne := mt (hshown old s).1 h
  refine ⟨noteChange_spaced hm hne, fun hs hline => ?_, fun hs hline => ?_⟩
  · rw [noteChange_free hm hne hs, if_neg (Bool.eq_false_iff.1 hline)]
  · rw [noteChange_free hm hne hs, if_pos hline]
    rfl

end Sys2Proof.PostureNotes
end

section
/-! O56: the service port (R192 to R196): the receiver, the reading of a line, the answers and the relay. -/

namespace Sys2Proof.ServicePort

open Sys2Proof.Machine Sys2Proof.Laws Sys2Proof.BlockLaws

/-! ## The receiver -/

section

variable {x : LineBuf} {c : RxChar}

theorem receive_dropped (h : x.overLong = true) : x.receive c = x := by
  rw [LineBuf.receive, if_pos h]

theorem receive_framing (h : x.overLong = false) (hc : c.stopLow = true) : x.receive c = { x with bad := true } := by
  rw [LineBuf.receive, if_neg (Bool.eq_false_iff.1 h), if_pos hc]

/-- A character with its stop bit high, by its code (R192). -/
theorem receive_code (h : x.overLong = false) (hc : c.stopLow = false) : x.receive c =
    if c.code.toNat = 10 then x
    else if c.code.toNat < 32 ∨ 126 < c.code.toNat then { x with bad := true }
    else if x.chars.length < 32 then { x with chars := x.chars ++ [c.code.toNat] }
    else { x with overLong := true } := by
  rw [LineBuf.receive, if_neg (Bool.eq_false_iff.1 h), if_neg (Bool.eq_false_iff.1 hc)]

end

/-! ## Reading a line -/

theorem readPeer_status_iff (w : List Nat) (rest : List (List Nat)) (n : Node) : readPeer w rest = .peerStatus n ↔
    w = [48 + n.val] ∧ rest = [codes ['S', 'T', 'A', 'T', 'U', 'S']] := by
  rw [← readNode_eq_some]
  unfold readPeer
  split
  · rename_i t v ht
    rw [ht]
    split
    · rename_i hv
      simp [hv]
    · rename_i hv
      simp [hv]
  · rename_i t v i ht
    split
    · split <;> simp
    · simp
  · rename_i h1 h2
    simp only [reduceCtorEq, false_iff]
    rintro ⟨hn, hr⟩
    exact h1 n _ hn hr

theorem readPeer_log_iff (w : List Nat) (rest : List (List Nat)) (n : Node) (i : Fin 32) :
    readPeer w rest = .peerLog n i ↔ w = [48 + n.val] ∧ ∃ v, rest = [codes ['L', 'O', 'G'], v] ∧
      ((i.val < 10 ∧ v = [48 + i.val]) ∨ v = [48 + i.val / 10, 48 + i.val % 10]) := by
  simp only [← readNode_eq_some, ← readIndex_eq_some]
  unfold readPeer
  split
  · rename_i t v ht
    split <;> simp
  · rename_i t v j ht
    rw [ht]
    split
    · rename_i hv
      split
      · rename_i k hk
        simp [hv, hk]
      · rename_i hk
        simp [hv, hk]
    · rename_i hv
      simp [hv]
  · rename_i h1 h2
    simp only [reduceCtorEq, false_iff]
    rintro ⟨hn, v, hr, -⟩
    exact h2 n _ v hn hr

/-- A PEER request reads as one of its two forms, or is wrong (R193). -/
theorem readPeer_cases (w : List Nat) (rest : List (List Nat)) :
    (∃ n, readPeer w rest = .peerStatus n) ∨ (∃ n i, readPeer w rest = .peerLog n i) ∨ readPeer w rest = .wrong := by
  unfold readPeer
  split
  · split
    · exact .inl ⟨_, rfl⟩
    · exact .inr (.inr rfl)
  · split
    · split
      · exact .inr (.inl ⟨_, _, rfl⟩)
      · exact .inr (.inr rfl)
    · exact .inr (.inr rfl)
  · exact .inr (.inr rfl)

/-- The four requests of one word, with their readings (R193). -/
def plainRequests : List (List Nat × LineRead) :=
  [(codes ['S', 'T', 'A', 'T', 'U', 'S'], .status), (codes ['R', 'O', 'S', 'T', 'E', 'R'], .roster)
  , (codes ['T', 'A', 'B', 'L', 'E'], .table), (codes ['L', 'O', 'G'], .log)]

theorem readWords_one (w : List Nat) : (∃ t, (w, t) ∈ plainRequests ∧ readWords [w] = t) ∨
    readWords [w] = .wrong ∧ ∀ t, (w, t) ∉ plainRequests := by
  by_cases h : ∃ t, (w, t) ∈ plainRequests
  · obtain ⟨t, ht⟩ := h
    refine .inl ⟨t, ht, ?_⟩
    simp only [plainRequests, List.mem_cons, List.not_mem_nil, or_false, Prod.mk.injEq] at ht
    rcases ht with ⟨rfl, rfl⟩ | ⟨rfl, rfl⟩ | ⟨rfl, rfl⟩ | ⟨rfl, rfl⟩ <;> decide
  · refine .inr ⟨?_, fun t ht => h ⟨t, ht⟩⟩
    have hne {v : List Nat} {t : LineRead} (hv : (v, t) ∈ plainRequests) : w ≠ v := fun e => h ⟨t, e ▸ hv⟩
    rw [readWords, if_neg (hne (t := .status) (by decide)), if_neg (hne (t := .roster) (by decide)),
      if_neg (hne (t := .table) (by decide)), if_neg (hne (t := .log) (by decide))]

theorem readWords_more (w v : List Nat) (rest : List (List Nat)) : readWords (w :: v :: rest) =
    if w = codes ['P', 'E', 'E', 'R'] then readPeer v rest else .wrong := rfl

/-- The words of a plain request, and no others, read as it (R193). -/
theorem readWords_plain_iff (ws : List (List Nat)) {v : List Nat} {t : LineRead} (hv : (v, t) ∈ plainRequests) :
    readWords ws = t ↔ ws = [v] := by
  have hkind : t = .status ∨ t = .roster ∨ t = .table ∨ t = .log := by
    simp only [plainRequests, List.mem_cons, List.not_mem_nil, or_false, Prod.mk.injEq] at hv
    exact hv.imp And.right (Or.imp And.right (Or.imp And.right And.right))
  have hwrong : t ≠ .wrong ∧ t ≠ .blank ∧ (∀ n, t ≠ .peerStatus n) ∧ ∀ n i, t ≠ .peerLog n i := by
    rcases hkind with rfl | rfl | rfl | rfl <;> exact ⟨nofun, nofun, nofun, nofun⟩
  obtain ⟨hne, hblank, hstatus, hlog⟩ := hwrong
  constructor
  · intro h
    match ws, h with
    | [], h => exact absurd h.symm hblank
    | [w], h =>
      rcases readWords_one w with ⟨t', hw, ht'⟩ | ⟨hw, -⟩
      · obtain rfl := ht'.symm.trans h
        have hsame : ∀ p ∈ plainRequests, ∀ q ∈ plainRequests, p.2 = q.2 → p.1 = q.1 := by decide
        have hwv : w = v := hsame _ hw _ hv rfl
        rw [hwv]
      · exact absurd (h.symm.trans hw) hne
    | w :: u :: rest, h =>
      rw [readWords_more] at h
      split at h
      · rcases readPeer_cases u rest with ⟨n, hp⟩ | ⟨n, i, hp⟩ | hp
        · exact absurd (h.symm.trans hp) (hstatus n)
        · exact absurd (h.symm.trans hp) (hlog n i)
        · exact absurd (h.symm.trans hp) hne
      · exact absurd h.symm hne
  · rintro rfl
    simp only [plainRequests, List.mem_cons, List.not_mem_nil, or_false, Prod.mk.injEq] at hv
    rcases hv with ⟨rfl, rfl⟩ | ⟨rfl, rfl⟩ | ⟨rfl, rfl⟩ | ⟨rfl, rfl⟩ <;> decide

theorem readWords_blank_iff (ws : List (List Nat)) : readWords ws = .blank ↔ ws = [] := by
  constructor
  · intro h
    match ws, h with
    | [], _ => rfl
    | [w], h =>
      rcases readWords_one w with ⟨t, hw, ht⟩ | ⟨hw, -⟩
      · obtain rfl := ht.symm.trans h
        revert hw
        simp [plainRequests]
      · exact nomatch h.symm.trans hw
    | w :: u :: rest, h =>
      rw [readWords_more] at h
      split at h
      · rcases readPeer_cases u rest with ⟨n, hp⟩ | ⟨n, i, hp⟩ | hp <;> exact nomatch h.symm.trans hp
      · exact nomatch h
  · rintro rfl
    rfl

/-- A PEER request, by the words behind PEER (R193). -/
theorem readWords_peer_iff (ws : List (List Nat)) {t : LineRead}
    (ht : (∃ n, t = .peerStatus n) ∨ ∃ n i, t = .peerLog n i) : readWords ws = t ↔
      ∃ w rest, ws = codes ['P', 'E', 'E', 'R'] :: w :: rest ∧ readPeer w rest = t := by
  constructor
  · intro h
    match ws, h with
    | [], h => rcases ht with ⟨n, rfl⟩ | ⟨n, i, rfl⟩ <;> exact nomatch h
    | [w], h =>
      rcases readWords_one w with ⟨t', hw, ht'⟩ | ⟨hw, -⟩
      · obtain rfl := ht'.symm.trans h
        rcases ht with ⟨n, rfl⟩ | ⟨n, i, rfl⟩ <;> simp [plainRequests] at hw
      · rcases ht with ⟨n, rfl⟩ | ⟨n, i, rfl⟩ <;> exact nomatch h.symm.trans hw
    | w :: u :: rest, h =>
      rw [readWords_more] at h
      split at h
      · rename_i hw
        exact ⟨u, rest, by rw [hw], h⟩
      · rcases ht with ⟨n, rfl⟩ | ⟨n, i, rfl⟩ <;> exact nomatch h
  · rintro ⟨w, rest, rfl, h⟩
    rw [readWords_more, if_pos rfl, h]

/-- A line that is bad or over-long is wrong before anything else (R193). -/
theorem read_eq_iff (x : LineBuf) {t : LineRead} (ht : t ≠ .wrong) : x.read = t ↔
    x.bad = false ∧ x.overLong = false ∧ readWords (splitWords [] x.chars) = t := by
  unfold LineBuf.read
  split
  · rename_i h
    refine ⟨fun h' => absurd h'.symm ht, fun ⟨hb, ho, _⟩ => ?_⟩
    rw [hb, ho] at h
    exact absurd h Bool.false_ne_true
  · rename_i h
    rw [Bool.or_eq_true, not_or, Bool.not_eq_true, Bool.not_eq_true] at h
    rw [and_iff_right h.1, and_iff_right h.2]

/-! ## Lines handed on -/

/-- The node with its line buffer empty for the next line (R192). -/
def cleared (s : State) : State := { s with port := { s.port with buf := LineBuf.empty } }

/-- The seven rows of the port act as the line reads (R193). -/
theorem exec_line {c : Instr} {l : List RxChar}
    (hc : c ∈ [Instr.status l, .roster l, .table l, .log l, .peerStatus l, .peerLog l, .error l]) (s : State) :
    exec c s = .next (s.portLine l) := by
  simp only [List.mem_cons, List.not_mem_nil, or_false] at hc
  rcases hc with rfl | rfl | rfl | rfl | rfl | rfl | rfl <;> rfl

theorem portLine_blank {s : State} {l : List RxChar} (h : (s.port.buf.gather l).read = .blank) :
    s.portLine l = cleared s := by
  rw [State.portLine, State.handOn, if_pos h]
  rfl

theorem portLine_busy {s : State} {l : List RxChar} (ha : s.port.answer ≠ .idle)
    (h : (s.port.buf.gather l).read ≠ .blank) :
    s.portLine l = { s with port := { s.port with buf := LineBuf.empty, busyOwed := true } } := by
  rw [State.portLine, State.handOn, if_neg h]
  exact if_neg ha

theorem portLine_accept {s : State} {l : List RxChar} (ha : s.port.answer = .idle) {t : LineRead}
    (h : (s.port.buf.gather l).read = t) (ht : t ≠ .blank) :
    s.portLine l = (cleared s).accept t := by
  rw [State.portLine, State.handOn, h, if_neg ht]
  exact if_pos ha

/-- A PEER request of a node that is not MEMBER, or for a target that is not (R196). -/
theorem peerRequest_refused {s : State} {n : Node} (h : s.member.mstate ≠ .member ∨ (s.entry n).state ≠ .member)
    (req : ProbeReq) : s.peerRequest n req = s.answer [.notMember] := by
  rw [State.peerRequest, if_pos]
  rw [Bool.or_eq_true, Bool.not_eq_true', bne_iff_ne]
  exact h.imp_left fun hm => by rw [State.isMember, beq_eq_false_iff_ne]; exact hm

/-- A PEER request for the node itself is answered, and one for a MEMBER peer is relayed (R196). -/
theorem peerRequest_member {s : State} {n : Node} (hm : s.member.mstate = .member) (hn : (s.entry n).state = .member)
    (req : ProbeReq) : s.peerRequest n req =
      if n = s.own then s.answer (contentLines (some s.straps.role) req (s.replyContent req))
      else State.queue
        { s with port := { s.port with
          answer := .relaying, relay := some { target := n, req := req }, relayTimer := some 250 } } (.probe n req) := by
  rw [State.peerRequest, if_neg]
  · rfl
  · rw [Bool.or_eq_true, Bool.not_eq_true', bne_iff_ne, hn]
    rintro (h | h)
    · rw [State.isMember, hm] at h
      exact absurd h (by decide)
    · exact h rfl

/-! ## The relay -/

theorem dropPending_tx (s : State) (k : Kind) (x : Option Node) : (s.dropPending k x).link.tx =
    if s.link.line.isSending k x = true then s.link.tx else s.link.tx.filter fun e => !e.isFor k x := by
  unfold State.dropPending
  split
  · rfl
  · rename_i h
    exact if_neg h

theorem exec_relayTimer {s : State} (ht : s.port.relayTimer ≠ none) (hr : s.port.relay ≠ none) :
    exec .relayTimer s = .next (State.dropPending { s with port := s.port.endRelay [.noReply] } .probe none) := by
  obtain ⟨n, hn⟩ := Option.ne_none_iff_exists'.1 ht
  obtain ⟨q, hq⟩ := Option.ne_none_iff_exists'.1 hr
  change execRelayTimer s = _
  unfold execRelayTimer
  rw [hn, hq]

theorem exec_answerSent (s : State) : exec .answerSent s = .next { s with port := s.port.sent } := rfl

/-- Settles O56: the receiver, the words and the readings of a line, the lines handed on, and the relay. -/
theorem portAnswersAndRelays : Obligations.PortAnswersAndRelays := by
  unfold Obligations.PortAnswersAndRelays
  refine ⟨fun b l c => ?_, fun n w rest hw hspace => ?_, fun x => ?_, fun s l => ?_, fun s l n req c ha hc => ?_,
    fun s => ⟨fun ht hr => ?_, fun a ha => ?_, fun ha => ?_⟩⟩
  · intro x code next
    have hnext : next = x.receive c := gather_append b l c
    rw [hnext]
    refine ⟨rfl, receive_dropped, receive_framing, fun ho hs => ?_⟩
    rw [receive_code ho hs]
    refine ⟨fun h => if_pos h, fun h32 h126 hlen => ?_, fun h32 h126 hlen => ?_, fun hout h10 _ => ?_⟩
    · rw [if_neg (by omega), if_neg (by omega), if_pos hlen]
    · rw [if_neg (by omega), if_neg (by omega), if_neg (by omega)]
    · rw [if_neg h10, if_pos hout]
  · have hword : splitWords [] w = [w] := by
      have h := splitWords_word w [] [] hspace
      rw [List.append_nil, List.nil_append, splitWords, if_neg hw] at h
      exact h
    refine ⟨?_, ?_, ?_⟩
    · rw [← List.append_nil (List.replicate n 32), splitWords_spaces]
      rfl
    · rw [splitWords_spaces, hword]
    · rw [List.append_assoc, splitWords_spaces, splitWords_word w _ _ hspace, List.nil_append, splitWords, if_pos rfl,
        if_neg hw]
  · intro word status log peer reads
    have hplain {v : List Nat} {t : LineRead} (hv : (v, t) ∈ plainRequests) (ht : t ≠ .wrong) : x.read = t ↔ reads [v] := by
      rw [read_eq_iff x ht, readWords_plain_iff _ hv]
    refine ⟨?_, hplain (by decide) nofun, hplain (by decide) nofun, hplain (by decide) nofun, hplain (by decide) nofun,
      fun n => ⟨?_, fun i => ?_⟩⟩
    · rw [read_eq_iff x (t := .blank) nofun, readWords_blank_iff]
    · rw [read_eq_iff x (t := .peerStatus n) nofun, readWords_peer_iff _ (.inl ⟨n, rfl⟩)]
      refine and_congr_right fun _ => and_congr_right fun _ => ?_
      simp only [readPeer_status_iff]
      constructor
      · rintro ⟨w, rest, h, rfl, rfl⟩
        exact h
      · exact fun h => ⟨_, _, h, rfl, rfl⟩
    · rw [read_eq_iff x (t := .peerLog n i) nofun, readWords_peer_iff _ (.inr ⟨n, i, rfl⟩)]
      simp only [readPeer_log_iff]
      constructor
      · rintro ⟨hb, ho, w, rest, h, rfl, v, rfl, ⟨hi, rfl⟩ | rfl⟩
        · exact .inl ⟨hi, hb, ho, h⟩
        · exact .inr ⟨hb, ho, h⟩
      · rintro (⟨hi, hb, ho, h⟩ | ⟨hb, ho, h⟩)
        · exact ⟨hb, ho, _, _, h, rfl, _, rfl, .inl ⟨hi, rfl⟩⟩
        · exact ⟨hb, ho, _, _, h, rfl, _, rfl, .inr rfl⟩
  · intro read send
    refine ⟨fun ha => ⟨fun h => ?_, fun h => ?_, fun h => ?_, fun h => ?_, fun h => ?_⟩, fun h c hc => ?_,
      fun ha h c hc => ?_⟩
    · rw [exec_line (l := l) (by simp), portLine_accept ha h nofun]
      rfl
    · rw [exec_line (l := l) (by simp), portLine_accept ha h nofun]
      rfl
    · rw [exec_line (l := l) (by simp), portLine_accept ha h nofun]
      rfl
    · rw [exec_line (l := l) (by simp), portLine_accept ha h nofun]
      rfl
    · rw [exec_line (l := l) (by simp), portLine_accept ha h nofun]
      rfl
    · rw [exec_line hc, portLine_blank h]
      rfl
    · rw [exec_line hc, portLine_busy ha h]
  · have he : exec c s = .next ((cleared s).peerRequest n req) := by
      rcases hc with ⟨rfl, rfl, hread⟩ | ⟨i, rfl, rfl, hread⟩
      · rw [exec_line (l := l) (by simp), portLine_accept ha hread nofun]
        rfl
      · rw [exec_line (l := l) (by simp), portLine_accept ha hread nofun]
        rfl
    have hreq {t : State} (h : (cleared s).peerRequest n req = t) :
        exec c s = .next t := he.trans (congrArg Host.Outcome.next h)
    intro port
    refine ⟨fun h => hreq (peerRequest_refused (s := cleared s) h req), fun hm hn hown => hreq ?_, fun hm hn hown => hreq ?_⟩
    · refine (peerRequest_member (s := cleared s) hm hn req).trans ((if_pos hown).trans ?_)
      cases req <;> rfl
    · exact (peerRequest_member (s := cleared s) hm hn req).trans (if_neg hown)
  · refine ⟨_, exec_relayTimer ht hr, ?_, ?_⟩
    · rw [dropPending_eq]
      rfl
    · exact dropPending_tx _ _ _
  · rw [exec_answerSent, PortUnit.sent, ha]
  · rw [exec_answerSent, PortUnit.sent, ha]

end Sys2Proof.ServicePort
end
